-- ==== Sys2Proof/Word.lean ====
section
/-! DEFINITION. The words of the machine: 32-bit registers and memory words, 8-bit memory bytes (R10, R60). -/

namespace Sys2Proof

/-- A register or a memory word (R10: "All register and memory words are 32 bits wide unless a width is given"). -/
abbrev Word := BitVec 32

/-- A byte of the shared memory (R60: "a byte is 8 bits"). -/
abbrev Byte := BitVec 8

end Sys2Proof
end

