-- ==== Sys2Proof/Syntax.lean ====
section
/-! DEFINITION. The eleven operations of spec/opcode_table.json: nine host commands (R83) and the two request-word
operations (R90). Operands that travel in `ARG0..ARG2` or `MII_DATA` are read by the meanings (R82, R91); only the operands
that stand in the encoded word are arguments here. -/

namespace Sys2Proof

/-- One constructor per row of the opcode table. -/
inductive Instr where
  /-- `INIT_RX_RING` (R113). -/
  | initRxRing
  /-- `INIT_TX_RING` (R114). -/
  | initTxRing
  /-- `SEND` (R160): `src` in `ARG0`, `len` in `ARG1`. -/
  | send
  /-- `RECEIVE` (R190): `block` is `CMD.BLK`; `dst` in `ARG0`, `max_len` in `ARG1`. -/
  | receive (block : Bool)
  /-- `POLL_RX` (R200). -/
  | pollRx
  /-- `READ_PHY` (R131): `addr` in `ARG0[4:0]`, `reg` in `ARG1[4:0]`. -/
  | readPhy
  /-- `WRITE_PHY` (R138): as `READ_PHY`, and `value` in `ARG2[15:0]`. -/
  | writePhy
  /-- `GET_MAC` (R145): `ptr` in `ARG0`. -/
  | getMac
  /-- `SET_MAC` (R144): `ptr` in `ARG0`. -/
  | setMac
  /-- `MII_READ` (R90, R141): the request word's `PA` and `RI`. -/
  | miiRead (pa ri : BitVec 5)
  /-- `MII_WRITE` (R90, R141): the request word's `PA` and `RI`; the value is in `MII_DATA`. -/
  | miiWrite (pa ri : BitVec 5)
  deriving DecidableEq, Repr, Inhabited

/-- The two formats an instruction word has (R80): which register the word is written to. -/
inductive Format where
  /-- The command word written to `CMD` (R81). -/
  | cmd
  /-- The request word held in `MII_REQ` (R90). -/
  | miireq
  deriving DecidableEq, Repr

end Sys2Proof
end

