-- ==== Sys2Proof/Decode.lean ====
section
/-! DEFINITION. Decoding of the two instruction formats, total and rejecting by name, and after it the encoder, each from
the tables of 30_encoding.md. -/

namespace Sys2Proof

/-- Why a word is no instruction of its format. -/
inductive DecodeError where
  /-- CMD: a bit of [31:9] is 1, or `BLK = 1` on an operation other than `RECEIVE` (R81). -/
  | reservedBits
  /-- CMD: `OP` is 0x00 or 0x0A to 0xFF (R84). -/
  | illegalOp
  /-- MIIREQ: `BUSY = 0`, the word starts nothing (R90). -/
  | notBusy
  deriving DecidableEq, Repr

/-- `OP`, bits [7:0] of the command word (R81). -/
def cmdOp (w : Word) : BitVec 8 := w.extractLsb' 0 8

/-- `BLK`, bit [8] of the command word (R81). -/
def cmdBlk (w : Word) : Bool := w.getLsbD 8

/-- The reserved bits [31:9] of the command word (R81). -/
def cmdReserved (w : Word) : BitVec 23 := w.extractLsb' 9 23

/-- `PA`, bits [15:11] of the request word (R90). -/
def miiPa (w : Word) : BitVec 5 := w.extractLsb' 11 5

/-- `RI`, bits [10:6] of the request word (R90). -/
def miiRi (w : Word) : BitVec 5 := w.extractLsb' 6 5

/-- `WR`, bit [1] of the request word (R90). -/
def miiWr (w : Word) : Bool := w.getLsbD 1

/-- `BUSY`, bit [0] of the request word (R90). -/
def miiBusy (w : Word) : Bool := w.getLsbD 0

/-- The opcode map (R83). `blk` is the operand of `RECEIVE` only. -/
def decodeOp (op : Nat) (blk : Bool) : Except DecodeError Instr :=
  match op with
  | 0x01 => .ok .initRxRing
  | 0x02 => .ok .initTxRing
  | 0x03 => .ok .send
  | 0x04 => .ok (.receive blk)
  | 0x05 => .ok .pollRx
  | 0x06 => .ok .readPhy
  | 0x07 => .ok .writePhy
  | 0x08 => .ok .getMac
  | 0x09 => .ok .setMac
  | _ => .error .illegalOp

/-- Decoding of a word written to `CMD` (R81): the reserved bits are checked before the operation. Whether the unit is
busy and whether the operation is allowed are checked by the meanings. -/
def decodeCmd (w : Word) : Except DecodeError Instr :=
  if cmdReserved w ≠ 0#23 ∨ (cmdBlk w = true ∧ cmdOp w ≠ 4#8) then .error .reservedBits
  else decodeOp (cmdOp w).toNat (cmdBlk w)

/-- Decoding of the word in `MII_REQ` (R90): `BUSY` and `WR` select the operation; the reserved bits have no effect. -/
def decodeMii (w : Word) : Except DecodeError Instr :=
  if miiBusy w then
    if miiWr w then .ok (.miiWrite (miiPa w) (miiRi w)) else .ok (.miiRead (miiPa w) (miiRi w))
  else .error .notBusy

/-- The decoder: the register a word is written to fixes its format (R80). -/
def decode (f : Format) (w : Word) : Except DecodeError Instr :=
  match f with
  | .cmd => decodeCmd w
  | .miireq => decodeMii w

/-- The format a bare word is read in where no register is named: CMD if it decodes there, else MIIREQ if it decodes
there, else CMD. DESIGN CHOICE, log entry 5: words 1, 3, 5, 7, 9 are instructions of both formats. -/
def formatOfWord (w : Word) : Format :=
  match decodeCmd w with
  | .ok _ => .cmd
  | .error _ =>
    match decodeMii w with
    | .ok _ => .miireq
    | .error _ => .cmd

/-- The low `nbits` bits of `w` as an instruction word (every format has 32 bits, R80). -/
def tableWord (nbits w : Nat) : Word := BitVec.ofNat 32 (w % 2 ^ nbits)

/-- What the decoder reads from a word of the opcode table. -/
def decodeTableWord (nbits w : Nat) : Option Instr :=
  match decode (formatOfWord (tableWord nbits w)) (tableWord nbits w) with
  | .ok i => some i
  | .error _ => none

/-! The encoder. -/

/-- The format of an instruction's word. -/
def Instr.format : Instr → Format
  | .initRxRing | .initTxRing | .send | .receive _ | .pollRx => .cmd
  | .readPhy | .writePhy | .getMac | .setMac => .cmd
  | .miiRead _ _ | .miiWrite _ _ => .miireq

/-- A request word with the reserved bits 0 (R90). -/
def encodeMii (pa ri : BitVec 5) (wr : Bool) : Word :=
  (pa.setWidth 32 <<< 11) ||| (ri.setWidth 32 <<< 6) ||| (if wr then 2#32 else 0#32) ||| 1#32

/-- The word of an instruction (R81, R83, R90). -/
def encode : Instr → Word
  | .initRxRing => 0x00000001#32
  | .initTxRing => 0x00000002#32
  | .send => 0x00000003#32
  | .receive block => if block then 0x00000104#32 else 0x00000004#32
  | .pollRx => 0x00000005#32
  | .readPhy => 0x00000006#32
  | .writePhy => 0x00000007#32
  | .getMac => 0x00000008#32
  | .setMac => 0x00000009#32
  | .miiRead pa ri => encodeMii pa ri false
  | .miiWrite pa ri => encodeMii pa ri true

/-- The bits of the instruction's row of the opcode table that are fixed. -/
def Instr.tableMask : Instr → Word
  | .receive _ => 0xFFFFFEFF#32
  | .miiRead _ _ | .miiWrite _ _ => 0x00000003#32
  | .initRxRing | .initTxRing | .send | .pollRx => 0xFFFFFFFF#32
  | .readPhy | .writePhy | .getMac | .setMac => 0xFFFFFFFF#32

/-- The value of the fixed bits of the instruction's row. -/
def Instr.tableMatch : Instr → Word
  | .initRxRing => 0x00000001#32
  | .initTxRing => 0x00000002#32
  | .send => 0x00000003#32
  | .receive _ => 0x00000004#32
  | .pollRx => 0x00000005#32
  | .readPhy => 0x00000006#32
  | .writePhy => 0x00000007#32
  | .getMac => 0x00000008#32
  | .setMac => 0x00000009#32
  | .miiRead _ _ => 0x00000001#32
  | .miiWrite _ _ => 0x00000003#32

end Sys2Proof
end

