-- ==== Sys2Proof/Config.lean ====
section
/-! DEFINITION. What one DRC fixes (R5, R7), the agents (R9), and the free values: constants with no body for everything
the spec calls a draw or leaves to the schedule. -/

namespace Sys2Proof

/-- The parameters of R5 with the parts of the configuration record that DRC reads (R7) and the predicates
`Mapped` (R76) and `PHY_RESPONDS` (R5) as plain data. DESIGN CHOICE, log entries 1, 9, 10. -/
structure Params where
  /-- `N_TX`, descriptors in the transmit ring. -/
  nTx : Nat
  /-- `N_RX`, descriptors in the receive ring. -/
  nRx : Nat
  /-- `CAP_TX`, bytes in each transmit buffer. -/
  capTx : Nat
  /-- `CAP_RX`, bytes in each receive buffer. -/
  capRx : Nat
  /-- `TXD_BASE`. -/
  txdBase : Word
  /-- `RXD_BASE`. -/
  rxdBase : Word
  /-- `TXB_BASE`. -/
  txbBase : Word
  /-- `RXB_BASE`. -/
  rxbBase : Word
  /-- `N_CH`, channels of the copy engine. -/
  nCh : Nat
  /-- `COPY_CH`, the channel DRC uses. -/
  copyCh : Nat
  /-- `PHY_ADDR`, used by the initialisation accesses of R293 and R299 only. -/
  phyAddr : BitVec 5
  /-- `WAIT_BUDGET` (R140). -/
  waitBudget : Option Nat
  /-- `MII_DATA_RACE` (R142). -/
  miiDataRace : Bool
  /-- `PHY_RESPONDS(pa)` is bit `pa`. -/
  phyResponds : BitVec 32
  /-- The ranges (first address, length) that are mapped beside the four regions of R6. -/
  mappedExtra : List (Nat × Nat)
  /-- `CFG_MAC`, byte `m[0]` the most significant (R7, R296). -/
  cfgMac : BitVec 48
  deriving DecidableEq, Repr

/-- The scenario of the source and of the spec's programs (95_test_vectors.md): 3 descriptors of 1500 bytes a ring, and
every address mapped. The parameters `State.reset` carries; DESIGN CHOICE, log entry 1. -/
def Params.scenario : Params :=
  { nTx := 3, nRx := 3, capTx := 1500, capRx := 1500,
    txdBase := 0x20000000#32, rxdBase := 0x20004000#32, txbBase := 0x20001000#32, rxbBase := 0x20005000#32,
    nCh := 1, copyCh := 0, phyAddr := 0#5, waitBudget := none, miiDataRace := false,
    phyResponds := 0xFFFFFFFF#32, mappedExtra := [(0, 4294967296)], cfgMac := 0#48 }

/-- Whose turn a step is: the agents of R9, MACDMA's four steps apart (R241), and the reset that comes from outside
(R290, log entry 17). -/
inductive Turn where
  /-- HOST performs the first of its pending accesses. -/
  | host
  /-- TXU performs the step of its state (R34). -/
  | txu
  /-- RXU performs the step of its state (R35). -/
  | rxu
  /-- MIU performs the step of its state (R36). -/
  | miu
  /-- The copy-completion handler (R226). -/
  | irq
  /-- The copy engine performs its transfer (R225). -/
  | copy
  /-- MACDMA transmits a descriptor (R245). -/
  | dmaTransmit
  /-- MACDMA suspends transmit (R246). -/
  | dmaSuspend
  /-- MACDMA fills a receive descriptor (R247). -/
  | dmaFill
  /-- A frame arrives (R251). -/
  | dmaArrive
  /-- MIIENG performs the access in flight (R141). -/
  | miieng
  /-- Hardware reset (R290). -/
  | reset
  deriving DecidableEq, Repr, Inhabited

/-- The three units a command belongs to (R2, R83). -/
inductive DrcUnit where
  /-- The transmit unit. -/
  | txu
  /-- The receive unit. -/
  | rxu
  /-- The PHY/MAC register unit. -/
  | miu
  deriving DecidableEq, Repr

/-- `draw` (R11): the n-th value no rule constrains; narrower draws are its low bits. No body: nothing can be proved of its
value. Log entry 6. -/
opaque Config.freeValue : Nat → BitVec 32

/-- Whose turn comes when no turn is listed (R269, R314: any enabled step may be taken next). Log entry 2. -/
opaque Config.freeTurn : Nat → Turn

/-- The address made by the unique-ID provider when `CFG_MAC` is all-zero (R296: `draw(6 bytes)`, fixed for the run).
Log entry 20. -/
opaque Config.generatedMac : BitVec 48

end Sys2Proof
end

