-- ==== Sys2Proof/Machine/State.lean ====
section
/-! DEFINITION. The state of the machine (10_state.md), as plain data: the register file, the three sequencers, the
boundary agents, the shared memory, the event history, and the model's own fields (parameters, turns, HOST's queue, the
counter of free values). Also the state after reset (R47) and the reasons a step can stop. -/

namespace Sys2Proof.Machine

/-- The shared memory (R60): (address, byte) pairs, addresses strictly rising and below 2^32, no pair holding the byte an
unlisted address reads as (`Memory.blank`). -/
abbrev Memory := List Host.Cell

/-- Completion codes (R93). -/
inductive Code where
  /-- Code 0, success. -/
  | ok
  /-- Code 1, `FRAG_OVERFLOW` (R261). -/
  | fragOverflow
  /-- Code 2, `RX_OVERFLOW` (R262). -/
  | rxOverflow
  /-- Code 3, `NODATA` (R263). -/
  | noData
  /-- Code 4, `HW_TIMEOUT` (R264). -/
  | hwTimeout
  /-- Code 5, `MALFORMED` (R265). -/
  | malformed
  deriving DecidableEq, Repr

/-- Why the last write to `CMD` was refused (R23, R266). -/
inductive CmdFault where
  /-- 0 `NONE`. -/
  | noFault
  /-- 1 `ILLEGAL_OP`. -/
  | illegalOp
  /-- 2 `UNIT_BUSY`. -/
  | unitBusy
  /-- 3 `RESERVED_BITS`. -/
  | reservedBits
  /-- 4 `NOT_ALLOWED`. -/
  | notAllowed
  deriving DecidableEq, Repr

/-- `T.state` (R34). -/
inductive TxuState where
  /-- `T_IDLE`. -/
  | idle
  /-- `T_CHECK`. -/
  | check
  /-- `T_WAIT_OWN`. -/
  | waitOwn
  /-- `T_CLEAR`. -/
  | clear
  /-- `T_COPY_START`. -/
  | copyStart
  /-- `T_ACQUIRE`. -/
  | acquire
  /-- `T_RECORD`. -/
  | record
  /-- `T_FLAG_FIRST`. -/
  | flagFirst
  /-- `T_FLAG_LAST`. -/
  | flagLast
  /-- `T_GRANT`. -/
  | grant
  /-- `T_POLL`. -/
  | poll
  /-- `T_DONE`. -/
  | done
  /-- A one-step command was accepted whose memory access the machine does not admit: busy, no step enabled (U8).
  DEDUCED, log entry 11. -/
  | stuck
  deriving DecidableEq, Repr

/-- `R.state` (R35). -/
inductive RxuState where
  /-- `R_IDLE`. -/
  | idle
  /-- `R_SCAN`. -/
  | scan
  /-- `R_LEN`. -/
  | len
  /-- `R_COPY`. -/
  | copy
  /-- `R_RETIRE`. -/
  | retire
  /-- `R_DONE`. -/
  | done
  /-- As `TxuState.stuck`. DEDUCED, log entry 11. -/
  | stuck
  deriving DecidableEq, Repr

/-- `M.state` (R36). -/
inductive MiuState where
  /-- `M_IDLE`. -/
  | idle
  /-- `M_WAIT1`. -/
  | wait1
  /-- `M_REQ`. -/
  | req
  /-- `M_DATA`. -/
  | data
  /-- `M_WAIT2`. -/
  | wait2
  /-- `M_READ`. -/
  | read
  /-- `M_DONE`. -/
  | done
  /-- As `TxuState.stuck`. DEDUCED, log entry 11. -/
  | stuck
  deriving DecidableEq, Repr

/-- TXU's state and working registers (R34). -/
structure Txu where
  /-- `T.state`. -/
  state : TxuState
  /-- `T.src`: address of the next payload byte to stage. -/
  src   : Word
  /-- `T.len`: the length operand. -/
  len   : Word
  /-- `T.rem`: bytes still to stage. -/
  rem   : Word
  /-- `T.total`: bytes staged so far. -/
  total : Word
  /-- `T.cnt`: fragments of this frame. -/
  cnt   : Nat
  /-- `T.i`: fragments staged so far. -/
  i     : Nat
  /-- `T.frag`: length of the fragment being staged. -/
  frag  : Nat
  /-- `T.first`: the first descriptor of this frame. -/
  first : Word
  /-- `T.last`: the descriptor staged most recently. -/
  last  : Word
  /-- `T.g`: grant pointer. -/
  g     : Word
  /-- `T.j`: descriptors granted so far. -/
  j     : Nat
  deriving DecidableEq, Repr

/-- RXU's state and working registers (R35). -/
structure Rxu where
  /-- `R.state`. -/
  state  : RxuState
  /-- `R.dst`: destination address, 0 for none. -/
  dst    : Word
  /-- `R.max`. -/
  max    : Word
  /-- `R.blk`. -/
  blk    : Bool
  /-- `R.p`: scan pointer. -/
  p      : Word
  /-- `R.k`: descriptors gathered. -/
  k      : Nat
  /-- `R.fl`: length field of the final segment. -/
  fl     : BitVec 14
  /-- `R.n`: frame length without the trailer. -/
  n      : Nat
  /-- `R.q`: copy pointer. -/
  q      : Word
  /-- `R.j`: loop counter. -/
  j      : Nat
  /-- `R.copied`: bytes copied so far. -/
  copied : Nat
  /-- `R.res`: the result to report. -/
  res    : Word
  /-- `R.code`: the code to report. -/
  code   : Code
  deriving DecidableEq, Repr

/-- MIU's state and working registers (R36). -/
structure Miu where
  /-- `M.state`. -/
  state : MiuState
  /-- `M.pa`. -/
  pa    : BitVec 5
  /-- `M.ri`. -/
  ri    : BitVec 5
  /-- `M.val`. -/
  val   : BitVec 16
  /-- `M.wr`: true for a write access. -/
  wr    : Bool
  /-- `M.polls`: unsuccessful polls of the current wait. -/
  polls : Nat
  deriving DecidableEq, Repr

/-- The copy engine (R42). -/
structure Copy where
  /-- `COPY.busy`. -/
  busy : Bool
  /-- `COPY.src`. -/
  src  : Word
  /-- `COPY.dst`. -/
  dst  : Word
  /-- `COPY.len`. -/
  len  : Nat
  /-- Where the payload lies of which the transfer is a part, from `T.src` and `T.total` when TXU started the engine: by this
  COPY's step knows the range R76 speaks of. The model's own field, log entry 16. -/
  payload : Word
  /-- The payload's length, from `T.len`. The model's own field, log entry 16. -/
  payloadLen : Word
  /-- `COPY.TC[c]`, one flag a channel. -/
  tc   : List Bool
  deriving DecidableEq, Repr

/-- The MAC's frame DMA (R44). -/
structure MacDma where
  /-- `MACDMA.tx_ptr`. -/
  txPtr   : Word
  /-- `MACDMA.rx_ptr`. -/
  rxPtr   : Word
  /-- `MACDMA.tx_run`. -/
  txRun   : Bool
  /-- `MACDMA.tx_acc`. -/
  txAcc   : List Byte
  /-- `MACDMA.tx_open`. -/
  txOpen  : Bool
  /-- `MACDMA.rx_pend`. -/
  rxPend  : List Byte
  /-- `MACDMA.rx_len`. -/
  rxLen   : Nat
  /-- `MACDMA.rx_open`. -/
  rxOpen  : Bool
  /-- `MACDMA.rx_first`. -/
  rxFirst : Bool
  deriving DecidableEq, Repr

/-- The events of the history (R46). -/
inductive Event where
  /-- The poll signal was given (R244). -/
  | txPoll
  /-- A transfer was started (R224). -/
  | copyStart (src dst : Word) (len : Nat)
  /-- A transfer was performed (R225). -/
  | copyDone (src dst : Word) (len : Nat)
  /-- The synchronizer was released (R222). -/
  | syncRelease
  /-- The synchronizer was acquired (R221). -/
  | syncAcquire
  /-- MACDMA read a transmit descriptor's bytes (R245). -/
  | txSegment (desc : Word) (bytes : List Byte) (fs ls : Bool)
  /-- A transmit frame was complete (R245). -/
  | txFrame (bytes : List Byte) (cso : Bool)
  /-- The MAC's completion interrupt (R268). -/
  | macIrq (desc : Word)
  /-- MACDMA filled a receive descriptor (R247). -/
  | rxSegment (desc : Word) (bytes : List Byte) (fs ls : Bool) (fl : BitVec 14)
  /-- The engine read a PHY register (R141). -/
  | phyRead (pa ri : BitVec 5) (value : BitVec 16)
  /-- The engine wrote a PHY register (R141). -/
  | phyWrite (pa ri : BitVec 5) (value : BitVec 16)
  deriving DecidableEq, Repr

/-- One access HOST will perform (R33, R60, R94). -/
inductive HostOp where
  /-- A write of `v` to the register window at byte offset `off`, `width` bytes wide. -/
  | regWrite (off width : Nat) (v : Word)
  /-- A read of the register window. -/
  | regRead (off width : Nat)
  /-- A write of bytes to the shared memory, in one step however many: the spec gives no width to HOST's accesses. DESIGN CHOICE, log
  entry 3. -/
  | memWrite (a : Word) (bytes : List Byte)
  /-- A read of one byte of the shared memory. DESIGN CHOICE, log entry 3. -/
  | memRead (a : Word)
  /-- `WAIT unit` (R94): read `STATUS` until the unit's busy bit is 0. -/
  | waitIdle (u : DrcUnit)
  deriving DecidableEq, Repr

/-- The whole state (R20). -/
structure State where
  /-- The parameters and the configuration (R5, R7): no rule writes them. The model's own field, log entry 1. -/
  par       : Params
  /-- `ARG0` (R21). -/
  arg0      : Word
  /-- `ARG1` (R21). -/
  arg1      : Word
  /-- `ARG2` (R21). -/
  arg2      : Word
  /-- `CMD_FAULT` (R23). -/
  cmdFault  : CmdFault
  /-- `CTRL.MAC_EN` (R24). -/
  macEn     : Bool
  /-- `CTRL.IRQ_EN` (R24). -/
  irqEn     : Bool
  /-- `STATUS.SYNC_FAULT` (R22, R229). -/
  syncFault : Bool
  /-- `TX_RESULT` (R25). -/
  txResult  : Word
  /-- `TX_CODE` (R25). -/
  txCode    : Code
  /-- `RX_RESULT` (R25). -/
  rxResult  : Word
  /-- `RX_CODE` (R25). -/
  rxCode    : Code
  /-- `MII_RESULT` (R25). -/
  miiResult : Word
  /-- `MII_CODE` (R25). -/
  miiCode   : Code
  /-- `TX_BASE` (R26). -/
  txBase    : Word
  /-- `TX_BASE_SET` (R26). -/
  txBaseSet : Bool
  /-- `RX_BASE` (R26). -/
  rxBase    : Word
  /-- `RX_BASE_SET` (R26). -/
  rxBaseSet : Bool
  /-- `TX_CUR` (R27). -/
  txCur     : Word
  /-- `RX_CUR` (R27). -/
  rxCur     : Word
  /-- `SYNC.LOCKED` (R29). -/
  locked    : Bool
  /-- `MII_REQ` (R30). -/
  miiReq    : Word
  /-- `MII_DATA[15:0]` (R31). -/
  miiData   : BitVec 16
  /-- `MAC_ADDR_HI` (R32). -/
  macHi     : Word
  /-- `MAC_ADDR_LO` (R32). -/
  macLo     : Word
  /-- TXU (R34). -/
  txu       : Txu
  /-- RXU (R35). -/
  rxu       : Rxu
  /-- MIU (R36). -/
  miu       : Miu
  /-- COPY (R42). -/
  copy      : Copy
  /-- MACDMA (R44). -/
  dma       : MacDma
  /-- The shared memory (R60). -/
  mem       : Memory
  /-- The event history, oldest first (R46). -/
  events    : List Event
  /-- The accesses HOST will perform, first to last. The model's own field, log entry 3. -/
  hostQ     : List HostOp
  /-- What HOST's last read returned. The model's own field, log entry 3. -/
  hostRd    : Word
  /-- The turns to be taken next, first to last. The model's own field, log entry 2. -/
  sched     : List Turn
  /-- How many free values have been taken. The model's own field, log entry 6. -/
  draws     : Nat
  deriving DecidableEq, Repr

/-- Where the machine stops with a fault. -/
inductive Fault where
  /-- Raised by TXU in `T_COPY_START` when `copy_start` is reached with the engine busy or with length 0: "A start while busy,
  or with `len = 0`, cannot arise from DRC's rules and has no defined meaning" (R224, U10). Safe: the model stops where the
  spec says nothing. Log entry 12. -/
  | copyStartUndefined
  deriving DecidableEq, Repr

/-- Where the machine refuses. -/
inductive Refusal where
  /-- Raised by an arm of `exec` whose instruction has no meaning yet. Safe. No arm raises it in this model. -/
  | notModelled (mnemonic : String)
  deriving DecidableEq, Repr

/-- The state after hardware reset (R47, R290) of a DRC with parameters `p` whose shared memory holds `m` (R291: reset does
not change it). Values R47 leaves unspecified are 0: DESIGN CHOICE, log entry 8. -/
def State.resetOf (p : Params) (m : Memory) : State :=
  { par := p,
    arg0 := 0#32, arg1 := 0#32, arg2 := 0#32,
    cmdFault := .noFault, macEn := false, irqEn := false, syncFault := false,
    txResult := 0#32, txCode := .ok, rxResult := 0#32, rxCode := .ok, miiResult := 0#32, miiCode := .ok,
    txBase := 0#32, txBaseSet := false, rxBase := 0#32, rxBaseSet := false,
    txCur := 0#32, rxCur := 0#32, locked := true,
    miiReq := 0#32, miiData := 0#16, macHi := 0#32, macLo := 0#32,
    txu := { state := .idle, src := 0#32, len := 0#32, rem := 0#32, total := 0#32, cnt := 0, i := 0, frag := 0,
             first := 0#32, last := 0#32, g := 0#32, j := 0 },
    rxu := { state := .idle, dst := 0#32, max := 0#32, blk := false, p := 0#32, k := 0, fl := 0#14, n := 0, q := 0#32,
             j := 0, copied := 0, res := 0#32, code := .ok },
    miu := { state := .idle, pa := 0#5, ri := 0#5, val := 0#16, wr := false, polls := 0 },
    copy := { busy := false, src := 0#32, dst := 0#32, len := 0, payload := 0#32, payloadLen := 0#32,
              tc := List.replicate p.nCh false },
    dma := { txPtr := 0#32, rxPtr := 0#32, txRun := false, txAcc := [], txOpen := false, rxPend := [], rxLen := 0,
             rxOpen := false, rxFirst := true },
    mem := m, events := [], hostQ := [], hostRd := 0#32, sched := [], draws := 0 }

/-- The machine right after power-on and reset: the scenario's parameters (log entry 1), nothing written to memory (log
entry 7). -/
def State.reset : State := State.resetOf Params.scenario []

end Sys2Proof.Machine
end

