-- ==== Sys2Proof/WellFormed.lean ====
section
/-! DEFINITION. Well-formedness. An `Instr` has no ill-formed term: its operands are 5-bit fields and one bit by type (R81,
R90). What must be checked is the parameter record: the constraints of R5 and the disjointness of the four regions (R6). -/

namespace Sys2Proof

/-- Two ranges (first address, length) share no address. -/
def rangesDisjoint (a b : Nat × Nat) : Bool :=
  decide (a.1 + a.2 ≤ b.1) || decide (b.1 + b.2 ≤ a.1)

/-- The four regions of R6 as (first address, length): the two descriptor arrays, the two buffer pools. -/
def Params.regions (p : Params) : List (Nat × Nat) :=
  [(p.txdBase.toNat, 16 * p.nTx), (p.rxdBase.toNat, 16 * p.nRx),
   (p.txbBase.toNat, p.nTx * p.capTx), (p.rxbBase.toNat, p.nRx * p.capRx)]

/-- Every two of a list of ranges are disjoint. -/
def pairwiseDisjoint : List (Nat × Nat) → Bool
  | [] => true
  | r :: rs => rs.all (rangesDisjoint r) && pairwiseDisjoint rs

/-- Sizes (R5): at least one descriptor a ring, capacities 1 to 65535, room for one frame of 5 bytes, byte counts below
2^31. -/
def Params.sizesOk (p : Params) : Bool :=
  decide (1 ≤ p.nTx) && decide (1 ≤ p.nRx)
    && decide (1 ≤ p.capTx) && decide (p.capTx ≤ 65535) && decide (1 ≤ p.capRx) && decide (p.capRx ≤ 65535)
    && decide (5 ≤ p.nRx * p.capRx) && decide (p.nTx * p.capTx < 2147483648) && decide (p.nRx * p.capRx < 2147483648)

/-- Placement (R5): descriptor bases are multiples of 4, pools do not start at 0, no region wraps past 2^32. -/
def Params.placementOk (p : Params) : Bool :=
  decide (p.txdBase.toNat % 4 = 0) && decide (p.rxdBase.toNat % 4 = 0)
    && decide (p.txbBase ≠ 0#32) && decide (p.rxbBase ≠ 0#32)
    && p.regions.all fun r => decide (r.1 + r.2 ≤ 4294967296)

/-- The copy engine's channel is one of its channels, and a wait budget is at least 1 (R5). -/
def Params.enginesOk (p : Params) : Bool :=
  decide (p.copyCh < p.nCh) && decide (p.waitBudget ≠ some 0)

/-- The constraints of R5 and R6. -/
def Params.wf (p : Params) : Bool :=
  p.sizesOk && p.placementOk && p.enginesOk && pairwiseDisjoint p.regions

end Sys2Proof
end

