-- ==== Sys2Proof/Machine/Ops.lean ====
section
/-! DEFINITION. The named operations every meaning and every agent step is written over: the shared memory (R60 to R65, R76),
free values, events, command acceptance, refusal and completion (R21, R25, R266, which stand where a processor has exception
entry and return: R260, R270, R271), the copy engine's start (R224), the synchronizer (R221, R222), the poll signal (R244), hardware
reset (R290). -/

/-! Address validity. -/

namespace Sys2Proof

/-- `a` lies in the range that starts at `r.1` and has `r.2` addresses. -/
def inRange (r : Nat × Nat) (a : Nat) : Bool := decide (r.1 ≤ a) && decide (a < r.1 + r.2)

/-- The ranges that are mapped: the four regions of R6 always, and what the platform maps (R76). Log entry 9. -/
def Params.mapped (p : Params) : List (Nat × Nat) := p.regions ++ p.mappedExtra

/-- `Mapped(addr)` (R76); nothing from 2^32 up. -/
def Params.mappedAt (p : Params) (a : Nat) : Bool :=
  decide (a < 4294967296) && p.mapped.any fun r => inRange r a

/-- Every address from `a` up to `e` lies in one of `rs`: from `a` to the end of a range that holds it, and so on, at most as many
ranges on as are given. -/
def coveredTo (rs : List (Nat × Nat)) (e : Nat) : Nat → Nat → Bool
  | 0, a => decide (e ≤ a)
  | k + 1, a => decide (e ≤ a) ||
    match rs.find? fun r => inRange r a with
    | none => false
    | some r => coveredTo rs e k (r.1 + r.2)

/-- Every byte of the `n` from an address up is mapped; a range that passes 2^32 is not (R76). `Params.mappedRange_iff` says so byte by
byte; this form is evaluated range by range, for a `max_len` may be 2^32 - 1. -/
def Params.mappedRange (p : Params) (a n : Nat) : Bool :=
  decide (n = 0) || (decide (a + n ≤ 4294967296) && coveredTo p.mapped (a + n) p.mapped.length a)

end Sys2Proof

namespace Sys2Proof.Machine

/-- The outcome of one step. -/
abbrev Result := Host.Outcome State Fault Refusal

/-- A step that is enabled gives its next state; an agent whose step is not enabled changes nothing (R12, U8). -/
def enabledOr (s : State) (o : Option State) : Result := .next (o.getD s)

/-! Memory. -/

/-- What an address that is not listed reads as: R47 leaves every byte open. DESIGN CHOICE, log entry 7. -/
def Memory.blank : Byte := 0#8

/-- Addresses strictly rise from one above `lo`, stay below 2^32, and no entry is blank. -/
def Memory.wfAbove : Option Nat → Memory → Bool
  | _, [] => true
  | lo, (a, v) :: m =>
    (match lo with | none => true | some l => decide (l < a)) && decide (a < 4294967296) && decide (v ≠ Memory.blank)
      && Memory.wfAbove (some a) m

/-- The canonical form of the memory. -/
def Memory.wf (m : Memory) : Bool := Memory.wfAbove none m

/-- The byte at an address. -/
def Memory.read : Memory → Nat → Byte
  | [], _ => Memory.blank
  | (k, v) :: m, a => if k = a then v else Memory.read m a

/-- The memory with one byte changed, in canonical form. -/
def Memory.write : Memory → Nat → Byte → Memory
  | [], a, v => if v = Memory.blank then [] else [(a, v)]
  | (k, w) :: m, a, v =>
    if a < k then (if v = Memory.blank then (k, w) :: m else (a, v) :: (k, w) :: m)
    else if a = k then (if v = Memory.blank then m else (a, v) :: m)
    else (k, w) :: Memory.write m a v

/-- The `n` bytes from an address up. -/
def Memory.readBytes (m : Memory) : Nat → Nat → List Byte
  | _, 0 => []
  | a, n + 1 => m.read a :: Memory.readBytes m (a + 1) n

/-- The memory with bytes written from an address up. -/
def Memory.writeBytes : Memory → Nat → List Byte → Memory
  | m, _, [] => m
  | m, a, b :: bs => Memory.writeBytes (m.write a b) (a + 1) bs

/-- The bytes of a word, least significant first (R62). -/
def bytesOfWord (v : Word) : List Byte :=
  [v.extractLsb' 0 8, v.extractLsb' 8 8, v.extractLsb' 16 8, v.extractLsb' 24 8]

/-- The little-endian word at an address (R62). -/
def Memory.wordAt (m : Memory) (a : Nat) : Word :=
  m.read (a + 3) ++ m.read (a + 2) ++ m.read (a + 1) ++ m.read a

/-- A word access the machine admits: a multiple of 4, all four bytes mapped (R64, R76). -/
def State.admitsWord (s : State) (a : Word) : Bool :=
  decide (a.toNat % 4 = 0) && s.par.mappedRange a.toNat 4

/-- The state with another memory. -/
def State.withMem (s : State) (m : Memory) : State := { s with mem := m }

/-- `MemRead(a, 4)` (R11); `none` where the access is not admitted. -/
def State.loadWord (s : State) (a : Word) : Option Word :=
  if s.admitsWord a then some (s.mem.wordAt a.toNat) else none

/-- `MemWrite(a, 4, v)` (R11). -/
def State.storeWord (s : State) (a v : Word) : Option State :=
  if s.admitsWord a then some (s.withMem (s.mem.writeBytes a.toNat (bytesOfWord v))) else none

/-- The `n` bytes at an address (`MemRead(a + i, 1)`, R11). -/
def State.loadBytes (s : State) (a : Word) (n : Nat) : Option (List Byte) :=
  if s.par.mappedRange a.toNat n then some (s.mem.readBytes a.toNat n) else none

/-- Bytes written at an address (`MemWrite(a + i, 1, _)`, R11). -/
def State.storeBytes (s : State) (a : Word) (bs : List Byte) : Option State :=
  if s.par.mappedRange a.toNat bs.length then some (s.withMem (s.mem.writeBytes a.toNat bs)) else none

/-! Free values (R11 `draw`, log entry 6). -/

/-- The `k`-th free value from here. -/
def State.fresh (s : State) (k : Nat) : BitVec 32 := Config.freeValue (s.draws + k)

/-- `n` free values have been taken. -/
def State.spend (s : State) (n : Nat) : State := { s with draws := s.draws + n }

/-- The `n` free bytes from the counter's value `d`. -/
def freeBytes (d : Nat) : Nat → List Byte
  | 0 => []
  | n + 1 => (Config.freeValue d).setWidth 8 :: freeBytes (d + 1) n

/-- Two ranges of `n` addresses share one. -/
def rangesOverlap (a b n : Nat) : Bool := decide (0 < n) && decide (a < b + n) && decide (b < a + n)

/-- `MemCopy(dst, src, n)` (R11). "defined only when the two ranges do not overlap": where they do, the bytes that land in the
destination are free values. DESIGN CHOICE, log entry 13. -/
def State.memCopy (s : State) (dst src : Word) (n : Nat) : Option State :=
  if s.par.mappedRange dst.toNat n && s.par.mappedRange src.toNat n then
    if rangesOverlap dst.toNat src.toNat n then
      some ((s.withMem (s.mem.writeBytes dst.toNat (freeBytes s.draws n))).spend n)
    else some (s.withMem (s.mem.writeBytes dst.toNat (s.mem.readBytes src.toNat n)))
  else none

/-! Events (R46). -/

/-- `emit` (R11). -/
def State.emit (s : State) (e : Event) : State := { s with events := s.events ++ [e] }

/-! Commands (R21, R25, R93, R266). -/

/-- The number of a completion code (R93). -/
def Code.number : Code → Nat
  | .ok => 0
  | .fragOverflow => 1
  | .rxOverflow => 2
  | .noData => 3
  | .hwTimeout => 4
  | .malformed => 5

/-- The number of a refusal reason (R23). -/
def CmdFault.number : CmdFault → Nat
  | .noFault => 0
  | .illegalOp => 1
  | .unitBusy => 2
  | .reservedBits => 3
  | .notAllowed => 4

/-- A signed 32-bit result `-c` (R10). -/
def minus (c : Nat) : Word := BitVec.ofNat 32 (4294967296 - c)

/-- `refuse(reason)` (R11, R266): `CMD_FAULT` and nothing else. -/
def State.refuse (s : State) (r : CmdFault) : State := { s with cmdFault := r }

/-- The part of acceptance common to all commands: `CMD_FAULT <- 0` (R266). -/
def State.accept (s : State) : State := { s with cmdFault := .noFault }

/-- `finish(TXU, result, code)` (R25). -/
def State.finishTx (s : State) (result : Word) (code : Code) : State :=
  { s with txResult := result, txCode := code, txu.state := .idle }

/-- `finish(RXU, result, code)` (R25). -/
def State.finishRx (s : State) (result : Word) (code : Code) : State :=
  { s with rxResult := result, rxCode := code, rxu.state := .idle }

/-- `finish(MIU, result, code)` (R25). -/
def State.finishMii (s : State) (result : Word) (code : Code) : State :=
  { s with miiResult := result, miiCode := code, miu.state := .idle }

/-- TXU has accepted a one-step command whose access is not admitted (U8). Log entry 11. -/
def State.stickTx (s : State) : State := { s with txu.state := .stuck }

/-- RXU has accepted a one-step command whose access is not admitted (U8). Log entry 11. -/
def State.stickRx (s : State) : State := { s with rxu.state := .stuck }

/-- MIU has accepted a one-step command whose access is not admitted (U8). Log entry 11. -/
def State.stickMii (s : State) : State := { s with miu.state := .stuck }

/-- `STATUS.TXU_BUSY`, `RXU_BUSY`, `MIU_BUSY`: 1 while the unit is not in its idle state (R22). -/
def State.busy (s : State) : DrcUnit → Bool
  | .txu => s.txu.state != .idle
  | .rxu => s.rxu.state != .idle
  | .miu => s.miu.state != .idle

/-! Synchronizer, copy engine, poll signal, base registers. -/

/-- `copy_start(src, dst, len)` (R224). -/
def State.startCopy (s : State) (src dst : Word) (len : Nat) : State :=
  ({ s with copy := { s.copy with src := src, dst := dst, len := len, busy := true } }).emit (.copyStart src dst len)

/-- `release()` (R222, R229): with a completion already waiting, the sticky fault instead. -/
def State.release (s : State) : State :=
  if s.locked then ({ s with locked := false }).emit .syncRelease else { s with syncFault := true }

/-- The acquire of R221, when it succeeds. -/
def State.acquire (s : State) : State := ({ s with locked := true }).emit .syncAcquire

/-- `COPY.TC[COPY_CH]`. -/
def State.tcFlag (s : State) : Bool := s.copy.tc.getD s.par.copyCh false

/-- The state with `COPY.TC[COPY_CH]` set to `b`. -/
def State.setTc (s : State) (b : Bool) : State :=
  { s with copy := { s.copy with tc := s.copy.tc.set s.par.copyCh b } }

/-- A write to `TX_POLL` (R28, R244). -/
def State.pollTx (s : State) : State := ({ s with dma := { s.dma with txRun := true } }).emit .txPoll

/-- Hardware reset (R290, R291): everything but the memory, the parameters and what is outside the machine. Log entry 17. -/
def State.hardReset (s : State) : State :=
  { State.resetOf s.par s.mem with hostQ := s.hostQ, hostRd := s.hostRd, sched := s.sched, draws := s.draws }

end Sys2Proof.Machine
end

