-- ==== Sys2Proof/Machine/Operands.lean ====
section
/-! DEFINITION. Operand forms (R82), descriptor placement and access (R38, R39, R85), the request word MIU writes (R90) and the
MAC address format (R92). -/

namespace Sys2Proof

/-- Descriptor `i` of the ring that starts at `base` (R38). -/
def descAddr (base : Word) (i : Nat) : Word := base + BitVec.ofNat 32 (16 * i)

/-- Buffer `i` of the pool that starts at `base`, buffers of `cap` bytes (R39). -/
def bufAddr (base : Word) (cap i : Nat) : Word := base + BitVec.ofNat 32 (i * cap)

/-- `TXD(i)` (R38). -/
def Params.txd (p : Params) (i : Nat) : Word := descAddr p.txdBase i

/-- `RXD(i)` (R38). -/
def Params.rxd (p : Params) (i : Nat) : Word := descAddr p.rxdBase i

/-- `TXB(i)` (R39). -/
def Params.txb (p : Params) (i : Nat) : Word := bufAddr p.txbBase p.capTx i

/-- `RXB(i)` (R39). -/
def Params.rxb (p : Params) (i : Nat) : Word := bufAddr p.rxbBase p.capRx i

end Sys2Proof

namespace Sys2Proof.Machine

/-- `addr`: `ARG0[4:0]` (R82). -/
def State.phyAddrOperand (s : State) : BitVec 5 := s.arg0.extractLsb' 0 5

/-- `reg`: `ARG1[4:0]` (R82). -/
def State.phyRegOperand (s : State) : BitVec 5 := s.arg1.extractLsb' 0 5

/-- `value`: `ARG2[15:0]` (R82). -/
def State.phyValueOperand (s : State) : BitVec 16 := s.arg2.extractLsb' 0 16

/-- Address of `D.W0` (R85). -/
def w0Addr (d : Word) : Word := d

/-- Address of `D.W1` (R85). -/
def w1Addr (d : Word) : Word := d + 4#32

/-- Address of `D.W2` (R85). -/
def w2Addr (d : Word) : Word := d + 8#32

/-- Address of `D.W3` (R85). -/
def w3Addr (d : Word) : Word := d + 12#32

/-- `D.W0`. -/
def State.loadW0 (s : State) (d : Word) : Option Word := s.loadWord (w0Addr d)

/-- `D.W1`. -/
def State.loadW1 (s : State) (d : Word) : Option Word := s.loadWord (w1Addr d)

/-- `D.W2`. -/
def State.loadW2 (s : State) (d : Word) : Option Word := s.loadWord (w2Addr d)

/-- `D.W3`, the ring-next reference (R111). -/
def State.loadW3 (s : State) (d : Word) : Option Word := s.loadWord (w3Addr d)

/-- A field update of `D.W0`: read, change, write, in one step (R65). -/
def State.updateW0 (s : State) (d : Word) (f : Word → Word) : Option State :=
  (s.loadW0 d).bind fun w => s.storeWord (w0Addr d) (f w)

/-- A field update of `D.W1` (R65). -/
def State.updateW1 (s : State) (d : Word) (f : Word → Word) : Option State :=
  (s.loadW1 d).bind fun w => s.storeWord (w1Addr d) (f w)

/-- The word MIU writes to `MII_REQ` (R90, R133): reserved bits kept, `BUSY = 1`. -/
def requestWord (old : Word) (pa ri : BitVec 5) (wr : Bool) : Word :=
  (old &&& 0xFFFF003C#32) ||| encodeMii pa ri wr

/-- What a HOST write leaves in `MII_REQ` (R30): a 0 written to `BUSY` does not clear it. -/
def hostRequestWord (old v : Word) : Word := v ||| (old &&& 1#32)

/-- `MII_REQ` after the engine has performed the access: `BUSY <- 0` (R141). -/
def clearBusy (w : Word) : Word := w &&& 0xFFFFFFFE#32

/-- `MAC_ADDR_HI` after `SET_MAC` (R92, R144). -/
def macHiOf (old : Word) (m0 m1 : Byte) : Word :=
  (old &&& 0xFFFF0000#32) ||| (m0.setWidth 32 <<< 8) ||| m1.setWidth 32

/-- `MAC_ADDR_LO` after `SET_MAC` (R92, R144). -/
def macLoOf (m2 m3 m4 m5 : Byte) : Word :=
  (m2.setWidth 32 <<< 24) ||| (m3.setWidth 32 <<< 16) ||| (m4.setWidth 32 <<< 8) ||| m5.setWidth 32

/-- The six bytes `m[0..5]` of the address registers (R92, R145). -/
def macBytes (hi lo : Word) : List Byte :=
  [hi.extractLsb' 8 8, hi.extractLsb' 0 8,
   lo.extractLsb' 24 8, lo.extractLsb' 16 8, lo.extractLsb' 8 8, lo.extractLsb' 0 8]

/-- The address HOST chooses at `MacAddressSet` (R296), as the six bytes `m[0..5]`. -/
def chosenMac (p : Params) : List Byte :=
  let a := if p.cfgMac = 0#48 then Config.generatedMac else p.cfgMac
  [a.extractLsb' 40 8, a.extractLsb' 32 8, a.extractLsb' 24 8, a.extractLsb' 16 8, a.extractLsb' 8 8, a.extractLsb' 0 8]

/-- `ceil(a / b)` for `b >= 1` (R10). -/
def ceilDiv (a b : Nat) : Nat := (a + b - 1) / b

end Sys2Proof.Machine
end

