-- ==== Sys2Proof/Machine/PhyMac.lean ====
section
/-! DEFINITION. The PHY/MAC register interface (41_phy_mac.md): acceptance of `READ_PHY` (R131) and `WRITE_PHY` (R138), one
definition per state of MIU (R132 to R137), the bounded wait (R140), `SET_MAC` (R144), `GET_MAC` (R145), and the register-access
engine's two operations (R141, R142). -/

namespace Sys2Proof

/-- `PHY_RESPONDS(pa)` (R5). Log entry 10. -/
def Params.phyRespondsAt (p : Params) (pa : BitVec 5) : Bool := p.phyResponds.getLsbD pa.toNat

end Sys2Proof

namespace Sys2Proof.Machine

/-- `M.state <- st`. -/
def State.gotoMii (s : State) (st : MiuState) : State := { s with miu.state := st }

/-- `READ_PHY` (R81, R131): the accepting step. MIU then runs the states below. -/
def execReadPhy (s : State) : Result :=
  if s.busy .miu then .next (s.refuse .unitBusy)
  else .next { s.accept with miu := { s.miu with
         pa := s.phyAddrOperand, ri := s.phyRegOperand, wr := false, polls := 0, state := .wait1 } }

/-- `WRITE_PHY` (R81, R138): the accepting step. -/
def execWritePhy (s : State) : Result :=
  if s.busy .miu then .next (s.refuse .unitBusy)
  else .next { s.accept with miu := {
         pa := s.phyAddrOperand, ri := s.phyRegOperand, val := s.phyValueOperand, wr := true, polls := 0,
         state := .wait1 } }

/-- `poll_failed()` (R139, R140). -/
def State.pollFailed (s : State) : State :=
  match s.par.waitBudget with
  | none => s
  | some b =>
    let t := { s with miu := { s.miu with polls := s.miu.polls + 1 } }
    if b ≤ s.miu.polls + 1 then t.finishMii (minus 4) .hwTimeout else t

/-- `M_WAIT1` (R132). -/
def miuWait1 (s : State) : State :=
  if miiBusy s.miiReq then s.pollFailed
  else { s with miu := { s.miu with polls := 0, state := .req } }

/-- `M_REQ` (R133). -/
def miuReq (s : State) : State :=
  ({ s with miiReq := requestWord s.miiReq s.miu.pa s.miu.ri s.miu.wr }).gotoMii (if s.miu.wr then .data else .wait2)

/-- `M_DATA` (R134). -/
def miuData (s : State) : State := ({ s with miiData := s.miu.val }).gotoMii .wait2

/-- `M_WAIT2` (R135). -/
def miuWait2 (s : State) : State :=
  if miiBusy s.miiReq then s.pollFailed else s.gotoMii (if s.miu.wr then .done else .read)

/-- `M_READ` (R136). -/
def miuRead (s : State) : State := { s with miu := { s.miu with val := s.miiData, state := .done } }

/-- `M_DONE` (R137). -/
def miuDone (s : State) : State := s.finishMii (if s.miu.wr then 0#32 else s.miu.val.setWidth 32) .ok

/-- The step of MIU's state. In `M_IDLE` there is none. -/
def miuStep (s : State) : Result :=
  match s.miu.state with
  | .idle => .next s
  | .wait1 => .next (miuWait1 s)
  | .req => .next (miuReq s)
  | .data => .next (miuData s)
  | .wait2 => .next (miuWait2 s)
  | .read => .next (miuRead s)
  | .done => .next (miuDone s)
  | .stuck => .next s

/-- `SET_MAC` (R81, R144): one atomic step. -/
def execSetMac (s : State) : Result :=
  if s.busy .miu then .next (s.refuse .unitBusy)
  else match s.loadBytes s.arg0 6 with
    | some [m0, m1, m2, m3, m4, m5] =>
      .next ({ s.accept with macHi := macHiOf s.macHi m0 m1, macLo := macLoOf m2 m3 m4 m5 }.finishMii 0#32 .ok)
    | _ => .next s.accept.stickMii

/-- `GET_MAC` (R81, R145): one atomic step. -/
def execGetMac (s : State) : Result :=
  if s.busy .miu then .next (s.refuse .unitBusy)
  else match s.accept.storeBytes s.arg0 (macBytes s.macHi s.macLo) with
    | some t => .next (t.finishMii 0#32 .ok)
    | none => .next s.accept.stickMii

/-- MIIENG may perform an access to transceiver `pa` (R141): it responds, and the hold of R142 is not in force. -/
def State.engineFree (s : State) (pa : BitVec 5) : Bool :=
  s.par.phyRespondsAt pa && (s.par.miiDataRace || s.miu.state != .data)

/-- `MII_READ` performed with the answer `v` (R141). -/
def State.phyRead (s : State) (pa ri : BitVec 5) (v : BitVec 16) : State :=
  ({ s with miiData := v, miiReq := clearBusy s.miiReq }).emit (.phyRead pa ri v)

/-- `MII_WRITE` performed (R141). -/
def State.phyWrite (s : State) (pa ri : BitVec 5) : State :=
  ({ s with miiReq := clearBusy s.miiReq }).emit (.phyWrite pa ri s.miiData)

/-- `MII_READ` (R141, R143): the value read is a free value; not enabled, nothing changes. Log entries 6, 23. -/
def execMiiRead (pa ri : BitVec 5) (s : State) : Result :=
  enabledOr s (if s.engineFree pa then some ((s.phyRead pa ri ((s.fresh 0).setWidth 16)).spend 1) else none)

/-- `MII_WRITE` (R141): the data register is sampled at this step; not enabled, nothing changes. Log entry 23. -/
def execMiiWrite (pa ri : BitVec 5) (s : State) : Result :=
  enabledOr s (if s.engineFree pa then some (s.phyWrite pa ri) else none)

end Sys2Proof.Machine
end

