-- ==== Sys2Proof/Machine/Flags.lean ====
section
/-! DEFINITION. The flags and fields of the descriptor words (R86, R87), with the field updates the rules perform. There are no
condition codes (R41). -/

namespace Sys2Proof.Machine

/-- `W0.OWN`, bit 31: true is hardware-owned (R40, R86). -/
def own (w0 : Word) : Bool := w0.getLsbD 31

/-- `W0.LS`, bit 29 (R86). -/
def segLast (w0 : Word) : Bool := w0.getLsbD 29

/-- `W0.FS`, bit 28 (R86). -/
def segFirst (w0 : Word) : Bool := w0.getLsbD 28

/-- `W0.FL`, bits [27:14] (R86). -/
def frameLen (w0 : Word) : BitVec 14 := w0.extractLsb' 14 14

/-- `W0.ERR`, bits [13:0] (R86). -/
def errBits (w0 : Word) : BitVec 14 := w0.extractLsb' 0 14

/-- `W1.IOC`, bit 31 (R87). -/
def irqOnCompletion (w1 : Word) : Bool := w1.getLsbD 31

/-- `W1.CH`, bit 30 (R87). -/
def chained (w1 : Word) : Bool := w1.getLsbD 30

/-- `W1.CSO`, bit 29 (R87). -/
def checksumOffload (w1 : Word) : Bool := w1.getLsbD 29

/-- `W1.BL`, bits [15:0] (R87). -/
def bufLen (w1 : Word) : BitVec 16 := w1.extractLsb' 0 16

/-- `W0.OWN <- 1` (R169, R194). -/
def setOwn (w0 : Word) : Word := w0 ||| 0x80000000#32

/-- `W0.FS <- 1` (R167). -/
def setSegFirst (w0 : Word) : Word := w0 ||| 0x10000000#32

/-- `W0.LS <- 1` (R168). -/
def setSegLast (w0 : Word) : Word := w0 ||| 0x20000000#32

/-- The status field cleared, `OWN` kept (R163). -/
def clearStatus (w0 : Word) : Word := w0 &&& 0x80000000#32

/-- `W1.IOC <- 1` (R168). -/
def setIoc (w1 : Word) : Word := w1 ||| 0x80000000#32

/-- `BL <- frag`, `IOC <- 0`, the rest kept (R166). -/
def recordLen (w1 : Word) (frag : Nat) : Word := (w1 &&& 0x7FFF0000#32) ||| BitVec.ofNat 32 frag

/-- `W0` as MACDMA gives a transmit descriptor back: `OWN <- 0`, `ERR <- err` (R245). -/
def retireTx (w0 : Word) (err : BitVec 14) : Word := (w0 &&& 0x7FFFC000#32) ||| err.setWidth 32

/-- `W0` as MACDMA gives a receive descriptor back: the whole word anew, `OWN` and the reserved bit 30 both 0 (R247, R194). R86 says of bit 30
that MACDMA preserves it. DEDUCED, log entry 25. -/
def filledW0 (fs last : Bool) (fl err : BitVec 14) : Word :=
  (if fs then 0x10000000#32 else 0#32) ||| (if last then 0x20000000#32 else 0#32)
    ||| (fl.setWidth 32 <<< 14) ||| err.setWidth 32

/-- `W0` of a receive descriptor after `INIT_RX_RING` (R113). -/
def rxInitW0 : Word := 0x80000000#32

/-- `W1` of a receive descriptor after `INIT_RX_RING` (R113). -/
def rxInitW1 (cap : Nat) : Word := 0x40000000#32 ||| BitVec.ofNat 32 cap

/-- `W0` of a transmit descriptor after `INIT_TX_RING` (R114). -/
def txInitW0 : Word := 0x00000000#32

/-- `W1` of a transmit descriptor after `INIT_TX_RING` (R114). -/
def txInitW1 : Word := 0x60000000#32

end Sys2Proof.Machine
end

