-- ==== Sys2Proof/Machine/Receive.lean ====
section
/-! DEFINITION. The receive path (43_receive.md): acceptance of `RECEIVE` (R190), one definition per state of RXU (R191 to R195),
and `POLL_RX` (R200). -/

namespace Sys2Proof.Machine

/-- `R.state <- st`. -/
def State.gotoRx (s : State) (st : RxuState) : State := { s with rxu.state := st }

/-- `RECEIVE` (R81, R190): the accepting step. RXU then runs the states below. -/
def execReceive (block : Bool) (s : State) : Result :=
  if s.busy .rxu then .next (s.refuse .unitBusy)
  else .next { s.accept with rxu := { s.rxu with
         dst := s.arg0, max := s.arg1, blk := block, p := s.rxCur, k := 0, state := .scan } }

/-- The result is settled and the gathered descriptors are to be returned: `R.res`, `R.code`, `R.j <- 0`, `R_RETIRE`
(R191, R192). -/
def State.retireWith (s : State) (res : Word) (code : Code) : State :=
  { s with rxu := { s.rxu with res := res, code := code, j := 0, state := .retire } }

/-- `R_SCAN` (R191, R196, R199). -/
def rxuScan (s : State) : Option State :=
  (s.loadW0 s.rxu.p).bind fun w =>
  if own w then
    if s.rxu.blk then some s else some (s.finishRx 0#32 .noData)
  else if segLast w then
    some { s with rxu := { s.rxu with k := s.rxu.k + 1, fl := frameLen w, state := .len } }
  else if s.rxu.k + 1 = s.par.nRx then
    some ({ s with rxu := { s.rxu with k := s.rxu.k + 1 } }.retireWith (minus 5) .malformed)
  else
    (s.loadW3 s.rxu.p).bind fun next =>
    some { s with rxu := { s.rxu with k := s.rxu.k + 1, p := next } }

/-- `R_LEN` (R192, R197 to R199). -/
def rxuLen (s : State) : State :=
  let fl := s.rxu.fl.toNat
  if fl < 4 ∨ s.rxu.k * s.par.capRx < fl then s.retireWith (minus 5) .malformed
  else
    let t := { s with rxu := { s.rxu with n := fl - 4 } }
    if s.rxu.dst = 0#32 then t.retireWith (BitVec.ofNat 32 (fl - 4)) .ok
    else if s.rxu.max.toNat < fl - 4 then t.retireWith (minus 2) .rxOverflow
    else { t with rxu := { t.rxu with
             res := BitVec.ofNat 32 (fl - 4), code := .ok, q := s.rxCur, j := 0, copied := 0, state := .copy } }

/-- `c` of R193: the bytes descriptor `R.j` contributes. -/
def State.copyLen (s : State) : Nat := min s.par.capRx (s.rxu.n - s.rxu.copied)

/-- `R_COPY` (R193). A descriptor's part is copied only if the whole destination range `[dst, dst+max_len)` (R45, R75, R190) is mapped:
"a `RECEIVE` whose destination range ... is not wholly mapped is an access the machine does not admit" (R76). Log entry 16. -/
def rxuCopy (s : State) : Option State :=
  if s.rxu.j < s.rxu.k then
    if s.par.mappedRange s.rxu.dst.toNat s.rxu.max.toNat then
    (s.loadW2 s.rxu.q).bind fun buf =>
    (s.memCopy (s.rxu.dst + BitVec.ofNat 32 s.rxu.copied) buf s.copyLen).bind fun t =>
    (t.loadW3 s.rxu.q).bind fun next =>
    some { t with rxu := { s.rxu with copied := s.rxu.copied + s.copyLen, q := next, j := s.rxu.j + 1 } }
    else none
  else some { s with rxu := { s.rxu with j := 0, state := .retire } }

/-- `R_RETIRE` (R194). -/
def rxuRetire (s : State) : Option State :=
  if s.rxu.j < s.rxu.k then
    (s.updateW0 s.rxCur setOwn).bind fun t =>
    (t.loadW3 s.rxCur).bind fun next =>
    some { t with rxCur := next, rxu := { t.rxu with j := t.rxu.j + 1 } }
  else some (s.gotoRx .done)

/-- `R_DONE` (R195). -/
def rxuDone (s : State) : State := s.finishRx s.rxu.res s.rxu.code

/-- The step of RXU's state. In `R_IDLE` there is none. -/
def rxuStep (s : State) : Result :=
  match s.rxu.state with
  | .idle => .next s
  | .scan => enabledOr s (rxuScan s)
  | .len => .next (rxuLen s)
  | .copy => enabledOr s (rxuCopy s)
  | .retire => enabledOr s (rxuRetire s)
  | .done => .next (rxuDone s)
  | .stuck => .next s

/-- `POLL_RX` (R81, R200): one atomic step. -/
def execPollRx (s : State) : Result :=
  if s.busy .rxu then .next (s.refuse .unitBusy)
  else match s.loadW0 s.rxCur with
    | some w => .next (s.accept.finishRx (if own w then 0#32 else 1#32) .ok)
    | none => .next s.accept.stickRx

end Sys2Proof.Machine
end

