-- ==== Sys2Proof/Machine/Ring.lean ====
section
/-! DEFINITION. The rings (40_ring.md): circular indexing (R112), `INIT_RX_RING` (R113), `INIT_TX_RING` (R114) and base
programming (R115). -/

namespace Sys2Proof.Machine

/-- `m` cursor advances from descriptor `d` (R112): each follows `D.W3`. -/
def State.advance (s : State) : Nat → Word → Option Word
  | 0, d => some d
  | m + 1, d => (s.loadW3 d).bind fun e => State.advance s m e

/-- The four words of a descriptor (R85). -/
def State.writeDesc (s : State) (d w0 w1 w2 w3 : Word) : Option State :=
  (s.storeWord (w0Addr d) w0).bind fun s =>
  (s.storeWord (w1Addr d) w1).bind fun s =>
  (s.storeWord (w2Addr d) w2).bind fun s =>
  s.storeWord (w3Addr d) w3

/-- The loop of R113 and R114 over descriptors 0 to `k - 1` of a ring of `n` descriptors at `dbase`, buffers of `cap` bytes
at `bbase`. -/
def State.initDescs (s : State) (dbase bbase : Word) (n cap : Nat) (w0 w1 : Word) : Nat → Option State
  | 0 => some s
  | k + 1 =>
    (State.initDescs s dbase bbase n cap w0 w1 k).bind fun t =>
      t.writeDesc (descAddr dbase k) w0 w1 (bufAddr bbase cap k) (descAddr dbase ((k + 1) % n))

/-- All receive descriptors as R113 writes them. -/
def State.initRxDescs (s : State) : Option State :=
  s.initDescs s.par.rxdBase s.par.rxbBase s.par.nRx s.par.capRx rxInitW0 (rxInitW1 s.par.capRx) s.par.nRx

/-- All transmit descriptors as R114 writes them. -/
def State.initTxDescs (s : State) : Option State :=
  s.initDescs s.par.txdBase s.par.txbBase s.par.nTx s.par.capTx txInitW0 txInitW1 s.par.nTx

/-- `INIT_RX_RING` (R81, R113): one atomic step. -/
def execInitRxRing (s : State) : Result :=
  if s.busy .rxu then .next (s.refuse .unitBusy)
  else if s.macEn then .next (s.refuse .notAllowed)
  else match s.accept.initRxDescs with
    | some t => .next ({ t with rxCur := t.par.rxdBase }.finishRx 0#32 .ok)
    | none => .next s.accept.stickRx

/-- `INIT_TX_RING` (R81, R114): one atomic step; it also resets the synchronizer (R223). -/
def execInitTxRing (s : State) : Result :=
  if s.busy .txu then .next (s.refuse .unitBusy)
  else if s.macEn then .next (s.refuse .notAllowed)
  else match s.accept.initTxDescs with
    | some t => .next ({ t with txCur := t.par.txdBase, locked := true }.finishTx 0#32 .ok)
    | none => .next s.accept.stickTx

/-- A HOST write to `TX_BASE` (R26, R115, R243): the first is stored and loads MACDMA's position, later ones are ignored. -/
def State.writeTxBase (s : State) (v : Word) : State :=
  if s.txBaseSet then s
  else { s with txBase := v, txBaseSet := true, dma := { s.dma with txPtr := v } }

/-- A HOST write to `RX_BASE` (R26, R115, R243). -/
def State.writeRxBase (s : State) (v : Word) : State :=
  if s.rxBaseSet then s
  else { s with rxBase := v, rxBaseSet := true, dma := { s.dma with rxPtr := v } }

end Sys2Proof.Machine
end

