-- ==== Sys2Proof/Machine/Transmit.lean ====
section
/-! DEFINITION. The transmit path (42_transmit.md): acceptance of `SEND` (R160) and one definition per state of TXU (R161 to
R171). -/

namespace Sys2Proof.Machine

/-- `T.state <- st`. -/
def State.gotoTx (s : State) (st : TxuState) : State := { s with txu.state := st }

/-- `SEND` (R81, R160): the accepting step. TXU then runs the states below. -/
def execSend (s : State) : Result :=
  if s.busy .txu then .next (s.refuse .unitBusy)
  else .next { s.accept with txu := { s.txu with src := s.arg0, len := s.arg1, state := .check } }

/-- `T_CHECK` (R161, R172). -/
def txuCheck (s : State) : State :=
  let cnt := ceilDiv s.txu.len.toNat s.par.capTx
  if s.par.nTx < cnt then s.finishTx (minus 1) .fragOverflow
  else if cnt = 0 then s.finishTx 0#32 .ok
  else { s with txu := { s.txu with
           cnt := cnt, i := 0, rem := s.txu.len, total := 0#32, first := s.txCur, state := .waitOwn } }

/-- `T_WAIT_OWN` (R162). -/
def txuWaitOwn (s : State) : Option State :=
  (s.loadW0 s.txCur).bind fun w => if own w then some s else some (s.gotoTx .clear)

/-- `T_CLEAR` (R163). -/
def txuClear (s : State) : Option State :=
  (s.updateW0 s.txCur clearStatus).bind fun s => some (s.gotoTx .copyStart)

/-- `T.frag` of R164: `min(T.rem, CAP_TX)`. -/
def State.fragLen (s : State) : Nat := min s.txu.rem.toNat s.par.capTx

/-- The payload range of the `SEND` in progress, handed to the engine with its start: it began `T.total` bytes below `T.src` and is
`T.len` long (R166, R173). Log entry 16. -/
def State.handPayload (s : State) : State :=
  { s with copy := { s.copy with payload := s.txu.src - s.txu.total, payloadLen := s.txu.len } }

/-- `T_COPY_START` (R164, R224): with the engine busy or nothing left to stage, `copy_start` has no defined meaning (U10, log
entry 12). -/
def txuCopyStart (s : State) : Result :=
  match s.loadW2 s.txCur with
  | none => .next s
  | some buf =>
    if s.copy.busy || decide (s.fragLen = 0) then .fault .copyStartUndefined
    else .next ({ s.handPayload with txu := { s.txu with frag := s.fragLen, state := .acquire } }.startCopy s.txu.src buf s.fragLen)

/-- `T_ACQUIRE` (R165, R221). -/
def txuAcquire (s : State) : State := if s.locked then s else (s.acquire).gotoTx .record

/-- `T_RECORD` (R166). -/
def txuRecord (s : State) : Option State :=
  (s.updateW1 s.txCur fun w => recordLen w s.txu.frag).bind fun t =>
  (t.loadW3 s.txCur).bind fun next =>
  some { t with
    txCur := next,
    txu := { s.txu with
      last := s.txCur,
      src := s.txu.src + BitVec.ofNat 32 s.txu.frag,
      rem := s.txu.rem - BitVec.ofNat 32 s.txu.frag,
      total := s.txu.total + BitVec.ofNat 32 s.txu.frag,
      i := s.txu.i + 1,
      state := if s.txu.rem - BitVec.ofNat 32 s.txu.frag = 0#32 then .flagFirst else .waitOwn } }

/-- `T_FLAG_FIRST` (R167). -/
def txuFlagFirst (s : State) : Option State :=
  (s.updateW0 s.txu.first setSegFirst).bind fun s => some (s.gotoTx .flagLast)

/-- `T_FLAG_LAST` (R168). -/
def txuFlagLast (s : State) : Option State :=
  (s.updateW0 s.txu.last setSegLast).bind fun s =>
  (s.updateW1 s.txu.last setIoc).bind fun s =>
  some { s with txu := { s.txu with g := s.txu.first, j := 0, state := .grant } }

/-- `T_GRANT` (R169): one descriptor a step, `T.cnt` of them. -/
def txuGrant (s : State) : Option State :=
  if s.txu.j < s.txu.cnt then
    (s.updateW0 s.txu.g setOwn).bind fun t =>
    (t.loadW3 s.txu.g).bind fun next =>
    some { t with txu := { t.txu with g := next, j := t.txu.j + 1 } }
  else some (s.gotoTx .poll)

/-- `T_POLL` (R170). -/
def txuPoll (s : State) : State := s.pollTx.gotoTx .done

/-- `T_DONE` (R171). -/
def txuDone (s : State) : State := s.finishTx s.txu.total .ok

/-- The step of TXU's state. In `T_IDLE` there is none. -/
def txuStep (s : State) : Result :=
  match s.txu.state with
  | .idle => .next s
  | .check => .next (txuCheck s)
  | .waitOwn => enabledOr s (txuWaitOwn s)
  | .clear => enabledOr s (txuClear s)
  | .copyStart => txuCopyStart s
  | .acquire => .next (txuAcquire s)
  | .record => enabledOr s (txuRecord s)
  | .flagFirst => enabledOr s (txuFlagFirst s)
  | .flagLast => enabledOr s (txuFlagLast s)
  | .grant => enabledOr s (txuGrant s)
  | .poll => .next (txuPoll s)
  | .done => .next (txuDone s)
  | .stuck => .next s

end Sys2Proof.Machine
end

