-- ==== Sys2Proof/Machine/Dispatch.lean ====
section
/-! DEFINITION. One arm per instruction. A CMD instruction runs when HOST writes its word to `CMD` (R21); a MIIREQ instruction
runs when MIIENG performs the access in flight (R141). -/

namespace Sys2Proof.Machine
open Sys2Proof

def exec (i : Instr) (s : State) : Host.Outcome State Fault Refusal :=
  match i with
  | .initRxRing => Sys2Proof.Machine.execInitRxRing s
  | .initTxRing => Sys2Proof.Machine.execInitTxRing s
  | .send => Sys2Proof.Machine.execSend s
  | .receive block => Sys2Proof.Machine.execReceive block s
  | .pollRx => Sys2Proof.Machine.execPollRx s
  | .readPhy => Sys2Proof.Machine.execReadPhy s
  | .writePhy => Sys2Proof.Machine.execWritePhy s
  | .getMac => Sys2Proof.Machine.execGetMac s
  | .setMac => Sys2Proof.Machine.execSetMac s
  | .miiRead pa ri => Sys2Proof.Machine.execMiiRead pa ri s
  | .miiWrite pa ri => Sys2Proof.Machine.execMiiWrite pa ri s

end Sys2Proof.Machine
end

