-- ==== Sys2Proof/Machine/MacDma.lean ====
section
/-! DEFINITION. The device side of the rings (45_macdma.md): MACDMA's four steps. What the spec draws is an argument of each
step, which the turn supplies from the free values. -/

namespace Sys2Proof.Machine

/-- R242 for the transmit steps. -/
def State.txEnabled (s : State) : Bool := s.macEn && s.txBaseSet && s.dma.txRun

/-- R242 for the receive steps. -/
def State.rxEnabled (s : State) : Bool := s.macEn && s.rxBaseSet

/-- A transmit descriptor the contract gives a meaning to (R250, U2, U3). Otherwise MACDMA is stuck. Log entry 14. -/
def State.txWellFormed (s : State) (w0 w1 : Word) : Bool :=
  chained w1 && decide (1 ≤ (bufLen w1).toNat) && decide ((bufLen w1).toNat ≤ s.par.capTx)
    && (segFirst w0 != s.dma.txOpen)

/-- The events of R245, in its order. -/
def txEvents (d w0 w1 : Word) (bytes acc : List Byte) : List Event :=
  [.txSegment d bytes (segFirst w0) (segLast w0)]
    ++ (if segLast w0 then [.txFrame acc (checksumOffload w1)] else [])
    ++ (if irqOnCompletion w1 then [.macIrq d] else [])

/-- MACDMA's transmit step (R245) with the error bits `err`. -/
def dmaTransmit (err : BitVec 14) (s : State) : Option State :=
  if s.txEnabled then
    (s.loadW0 s.dma.txPtr).bind fun w0 =>
    if own w0 then
      (s.loadW1 s.dma.txPtr).bind fun w1 =>
      if s.txWellFormed w0 w1 then
        (s.loadW2 s.dma.txPtr).bind fun buf =>
        (s.loadBytes buf (bufLen w1).toNat).bind fun bytes =>
        (s.storeWord (w0Addr s.dma.txPtr) (retireTx w0 err)).bind fun t =>
        (t.loadW3 s.dma.txPtr).bind fun next =>
        let acc := (if segFirst w0 then [] else s.dma.txAcc) ++ bytes
        some { t with
          dma := { s.dma with txAcc := acc, txOpen := !segLast w0, txPtr := next },
          events := s.events ++ txEvents s.dma.txPtr w0 w1 bytes acc }
      else none
    else none
  else none

/-- MACDMA's suspend step (R246). -/
def dmaSuspend (s : State) : Option State :=
  if s.txEnabled then
    (s.loadW0 s.dma.txPtr).bind fun w0 =>
    if own w0 then none else some { s with dma := { s.dma with txRun := false } }
  else none

/-- The length field a filled descriptor gets (R247): the frame's length on its last segment, else `fl`. -/
def State.fillField (s : State) (last : Bool) (fl : BitVec 14) : BitVec 14 :=
  if last then BitVec.ofNat 14 s.dma.rxLen else fl

/-- `c` pending bytes go to the buffer and the descriptor at MACDMA's position comes back, its last segment or not (R247). -/
def State.fillDesc (s : State) (buf : Word) (c : Nat) (last : Bool) (field err : BitVec 14) : Option State :=
  (s.storeBytes buf (s.dma.rxPend.take c)).bind fun t =>
  (t.storeWord (w0Addr s.dma.rxPtr) (filledW0 s.dma.rxFirst last field err)).bind fun t =>
  (t.loadW3 s.dma.rxPtr).bind fun next =>
  some ({ t with dma := { s.dma with
      rxPend := s.dma.rxPend.drop c, rxOpen := !last, rxFirst := last, rxPtr := next } }.emit
    (.rxSegment s.dma.rxPtr (s.dma.rxPend.take c) s.dma.rxFirst last field))

/-- MACDMA's fill step (R247) with the error bits `err` and, for a segment that is not the last, the length field `fl`. -/
def dmaFill (fl err : BitVec 14) (s : State) : Option State :=
  if s.rxEnabled && s.dma.rxOpen then
    (s.loadW0 s.dma.rxPtr).bind fun w0 =>
    if own w0 then
      (s.loadW1 s.dma.rxPtr).bind fun w1 =>
      if chained w1 then
        (s.loadW2 s.dma.rxPtr).bind fun buf =>
        let c := min s.dma.rxPend.length (bufLen w1).toNat
        let last := (s.dma.rxPend.drop c).isEmpty
        s.fillDesc buf c last (s.fillField last fl) err
      else none
    else none
  else none

/-- The longest frame that may arrive (R251). -/
def State.maxFrame (s : State) : Nat := min 16383 (s.par.nRx * s.par.capRx)

/-- A frame arrives (R251). -/
def dmaArrive (frame : List Byte) (s : State) : Option State :=
  if s.rxEnabled && !s.dma.rxOpen && decide (4 ≤ frame.length) && decide (frame.length ≤ s.maxFrame) then
    some { s with dma := { s.dma with rxPend := frame, rxLen := frame.length, rxOpen := true, rxFirst := true } }
  else none

/-- The frame of R251 as free values: a length of 4 to `maxFrame`, then that many bytes. Log entry 19. -/
def State.freeFrame (s : State) : List Byte :=
  freeBytes (s.draws + 1) (4 + (s.fresh 0).toNat % (s.maxFrame - 3))

end Sys2Proof.Machine
end

