-- ==== Sys2Proof/Machine/RegFile.lean ====
section
/-! DEFINITION. The register window (R21 to R33): the map of offsets, what a read returns and what a write does. A write to `CMD`
is a command and is decoded in Machine/Agents.lean. -/

namespace Sys2Proof.Machine

/-- The registers of R33. -/
inductive Reg where
  | cmd | arg0 | arg1 | arg2 | status | cmdFault | ctrl
  | txResult | txCode | rxResult | rxCode | miiResult | miiCode
  | txBase | rxBase | txCur | rxCur | txPoll | sync
  | miiReq | miiData | macHi | macLo
  deriving DecidableEq, Repr

/-- The register an access reaches (R33): the table's offsets, 32 bits wide; any other access reaches none. -/
def regAt (off width : Nat) : Option Reg :=
  if width = 4 then
    match off with
    | 0x00 => some .cmd
    | 0x04 => some .arg0
    | 0x08 => some .arg1
    | 0x0C => some .arg2
    | 0x10 => some .status
    | 0x14 => some .cmdFault
    | 0x18 => some .ctrl
    | 0x20 => some .txResult
    | 0x24 => some .txCode
    | 0x28 => some .rxResult
    | 0x2C => some .rxCode
    | 0x30 => some .miiResult
    | 0x34 => some .miiCode
    | 0x40 => some .txBase
    | 0x44 => some .rxBase
    | 0x48 => some .txCur
    | 0x4C => some .rxCur
    | 0x50 => some .txPoll
    | 0x60 => some .sync
    | 0x80 => some .miiReq
    | 0x84 => some .miiData
    | 0x88 => some .macHi
    | 0x8C => some .macLo
    | _ => none
  else none

/-- The word with bit `i` equal to `b`, the rest 0. -/
def bitAt (b : Bool) (i : Nat) : Word := if b then 1#32 <<< i else 0#32

/-- `STATUS` (R22). -/
def State.statusWord (s : State) : Word :=
  bitAt (s.busy .txu) 0 ||| bitAt (s.busy .rxu) 1 ||| bitAt (s.busy .miu) 2 ||| bitAt s.syncFault 8

/-- `CTRL` (R24). -/
def State.ctrlWord (s : State) : Word := bitAt s.macEn 0 ||| bitAt s.irqEn 1

/-- What a register reads as (R21 to R33). -/
def State.readReg (s : State) : Reg → Word
  | .cmd => 0#32
  | .arg0 => s.arg0
  | .arg1 => s.arg1
  | .arg2 => s.arg2
  | .status => s.statusWord
  | .cmdFault => BitVec.ofNat 32 s.cmdFault.number
  | .ctrl => s.ctrlWord
  | .txResult => s.txResult
  | .txCode => BitVec.ofNat 32 s.txCode.number
  | .rxResult => s.rxResult
  | .rxCode => BitVec.ofNat 32 s.rxCode.number
  | .miiResult => s.miiResult
  | .miiCode => BitVec.ofNat 32 s.miiCode.number
  | .txBase => s.txBase
  | .rxBase => s.rxBase
  | .txCur => s.txCur
  | .rxCur => s.rxCur
  | .txPoll => 0#32
  | .sync => bitAt s.locked 0
  | .miiReq => s.miiReq
  | .miiData => s.miiData.setWidth 32
  | .macHi => s.macHi
  | .macLo => s.macLo

/-- A HOST write to one of MIU's four registers is ignored while MIU is busy (R147). -/
def State.ifMiuIdle (s t : State) : State := if s.busy .miu then s else t

/-- What a HOST write to a register other than `CMD` does (R21 to R33). Read-only registers ignore it (U7). -/
def State.writeReg (s : State) (r : Reg) (v : Word) : State :=
  match r with
  | .cmd => s
  | .arg0 => { s with arg0 := v }
  | .arg1 => { s with arg1 := v }
  | .arg2 => { s with arg2 := v }
  | .status => s
  | .cmdFault => s
  | .ctrl => { s with macEn := v.getLsbD 0, irqEn := v.getLsbD 1 }
  | .txResult => s
  | .txCode => s
  | .rxResult => s
  | .rxCode => s
  | .miiResult => s
  | .miiCode => s
  | .txBase => s.writeTxBase v
  | .rxBase => s.writeRxBase v
  | .txCur => s
  | .rxCur => s
  | .txPoll => s.pollTx
  | .sync => s
  | .miiReq => s.ifMiuIdle { s with miiReq := hostRequestWord s.miiReq v }
  | .miiData => s.ifMiuIdle { s with miiData := v.extractLsb' 0 16 }
  | .macHi => s.ifMiuIdle { s with macHi := v }
  | .macLo => s.ifMiuIdle { s with macLo := v }

end Sys2Proof.Machine
end

