-- ==== Sys2Proof/Machine/Sync.lean ====
section
/-! DEFINITION. The copy engine's step (R225) and the copy-completion handler (R226), 44_sync_irq.md. The acquire (R221), the
release (R222), the start (R224) are in Machine/Ops.lean. -/

namespace Sys2Proof.Machine

/-- COPY's step (R225); enabled while `COPY.busy = 1`, the copy's bytes are mapped and so is the whole payload they are of: "a `SEND`
whose payload range ... is not wholly mapped is an access the machine does not admit" (R76). Log entry 16. -/
def copyStep (s : State) : Option State :=
  if s.copy.busy && s.par.mappedRange s.copy.payload.toNat s.copy.payloadLen.toNat then
    (s.memCopy s.copy.dst s.copy.src s.copy.len).bind fun t =>
    some (({ t with copy := { t.copy with busy := false } }.setTc true).emit (.copyDone s.copy.src s.copy.dst s.copy.len))
  else none

/-- IRQ's step (R226); enabled while `CTRL.IRQ_EN = 1` and `COPY.TC[COPY_CH] = 1`. -/
def irqStep (s : State) : Option State :=
  if s.irqEn && s.tcFlag then some (s.setTc false).release else none

end Sys2Proof.Machine
end

