-- ==== Sys2Proof/Machine/Agents.lean ====
section
/-! DEFINITION. What each agent does in its turn (R9): HOST's accesses, the fetch of a command word from `CMD` and of a request word
from `MII_REQ`, and the turns of the other agents. Also the programs the spec writes as lists of HOST accesses (R94, R95). -/

namespace Sys2Proof

/-- The refusal reason of a word that does not decode (R81). `notBusy` is no error of a command word. -/
def DecodeError.reason : DecodeError → Machine.CmdFault
  | .reservedBits => .reservedBits
  | .illegalOp => .illegalOp
  | .notBusy => .illegalOp

end Sys2Proof

namespace Sys2Proof.Machine

/-- A write of `v` to `CMD` (R21, R81, R266). -/
def hostCommand (v : Word) (s : State) : Result :=
  match decode .cmd v with
  | .ok i => exec i s
  | .error e => .next (s.refuse (e.reason))

/-- A HOST write to the register window (R33, U7): an access that reaches no register changes nothing. -/
def hostWrite (off width : Nat) (v : Word) (s : State) : Result :=
  match regAt off width with
  | some .cmd => hostCommand v s
  | some r => .next (s.writeReg r v)
  | none => .next s

/-- A HOST read of the register window (R33, U7): an access that reaches no register returns a free value. -/
def hostRead (off width : Nat) (s : State) : State :=
  match regAt off width with
  | some r => { s with hostRd := s.readReg r }
  | none => ({ s with hostRd := s.fresh 0 }).spend 1

/-- HOST's turn: the first of its pending accesses. A memory access that is not admitted is not enabled (R76) and stays first; a
`WAIT` stays first while the unit is busy (R94). Log entry 3. -/
def hostStep (s : State) : Result :=
  match s.hostQ with
  | [] => .next s
  | .regWrite off width v :: q => hostWrite off width v { s with hostQ := q }
  | .regRead off width :: q => .next (hostRead off width { s with hostQ := q })
  | .memWrite a bs :: q => enabledOr s (({ s with hostQ := q }).storeBytes a bs)
  | .memRead a :: q =>
    if s.par.mappedAt a.toNat then .next { s with hostQ := q, hostRd := (s.mem.read a.toNat).setWidth 32 } else .next s
  | .waitIdle u :: q =>
    if s.busy u then .next { s with hostRd := s.statusWord } else .next { s with hostQ := q, hostRd := s.statusWord }

/-- MIIENG's turn (R141): the operation in `MII_REQ`; with `BUSY = 0` there is none. -/
def miiengStep (s : State) : Result :=
  match decode .miireq s.miiReq with
  | .ok i => exec i s
  | .error _ => .next s

/-- The step of the agent whose turn it is. A turn given to an agent with no enabled step changes nothing (log entry 2). -/
def turnStep (t : Turn) (s : State) : Result :=
  match t with
  | .host => hostStep s
  | .txu => txuStep s
  | .rxu => rxuStep s
  | .miu => miuStep s
  | .irq => enabledOr s (irqStep s)
  | .copy => enabledOr s (copyStep s)
  | .dmaTransmit => enabledOr s ((dmaTransmit ((s.fresh 0).setWidth 14) s).map fun t => t.spend 1)
  | .dmaSuspend => enabledOr s (dmaSuspend s)
  | .dmaFill =>
    enabledOr s
      ((dmaFill ((s.fresh 0).setWidth 14) ((s.fresh 1).setWidth 14) s).map fun t => t.spend 2)
  | .dmaArrive => enabledOr s ((dmaArrive s.freeFrame s).map fun t => t.spend (1 + s.freeFrame.length))
  | .miieng => miiengStep s
  | .reset => .next s.hardReset

/-- Whose turn it is: the first listed, else a free choice (log entry 2). -/
def State.nextTurn (s : State) : Turn :=
  match s.sched with
  | t :: _ => t
  | [] => Config.freeTurn s.draws

/-- The state with that choice made. -/
def State.takeTurn (s : State) : State :=
  match s.sched with
  | _ :: ts => { s with sched := ts }
  | [] => s.spend 1

/-! The programs of R94 and R95. -/

/-- A command line of R94: the operands to `ARG0..ARG2`, then the word to `CMD`. -/
def commandLine (i : Instr) (args : List Word) : List HostOp :=
  (args.zipIdx.map fun a => .regWrite (4 + 4 * a.2) 4 a.1) ++ [.regWrite 0x00 4 (encode i)]

/-- `INITIALIZE` (R95) with the six bytes of the address laid out at `ptr` first (R296). Log entry 22. -/
def initializeProgram (p : Params) (ptr : Word) : List HostOp :=
  [.memWrite ptr (chosenMac p)]
    ++ commandLine .setMac [ptr] ++ [.waitIdle .miu]
    ++ commandLine .initRxRing [] ++ [.waitIdle .rxu]
    ++ commandLine .initTxRing [] ++ [.waitIdle .txu]
    ++ [.regWrite 0x44 4 p.rxdBase, .regWrite 0x40 4 p.txdBase, .regWrite 0x18 4 2#32, .regWrite 0x18 4 3#32]

/-- The access of `PhySpeedSet` (R299), and of `PhyReset` (R293): one `WRITE_PHY` to the transceiver at `PHY_ADDR`, register and value
free values from the counter's value `d`. Log entry 22. -/
def phyAccessProgram (p : Params) (d : Nat) : List HostOp :=
  commandLine .writePhy [p.phyAddr.setWidth 32, ((Config.freeValue d).setWidth 5).setWidth 32,
      ((Config.freeValue (d + 1)).setWidth 16).setWidth 32]
    ++ [.waitIdle .miu]

/-! Placing one instruction (log entry 4). -/

/-- HOST's next access writes `v` to `CMD`, and it is HOST's turn. -/
def State.placeCommand (s : State) (v : Word) : State :=
  { s with hostQ := .regWrite 0x00 4 v :: s.hostQ, sched := .host :: s.sched }

/-- `MII_REQ` holds `v`, and it is MIIENG's turn. -/
def State.placeRequest (s : State) (v : Word) : State :=
  { s with miiReq := v, sched := .miieng :: s.sched }

/-- The instruction word `v` placed where its format is fetched from. -/
def State.placeWord (s : State) (v : Word) : State :=
  match formatOfWord v with
  | .cmd => s.placeCommand v
  | .miireq => s.placeRequest v

end Sys2Proof.Machine
end

