-- ==== Sys2Proof/Machine/Step.lean ====
section
/-! DEFINITION. One step of the machine: one turn of one agent (R8, R68). -/

namespace Sys2Proof.Machine

/-- Whose turn it is, that turn taken, and the agent's step performed. -/
def step (s : State) : Host.Outcome State Fault Refusal := turnStep s.nextTurn s.takeTurn

/-- `s` with an instruction word of `nbits` bits placed so that the next step runs it (log entry 4). -/
def State.withFetchWord (s : State) (nbits w : Nat) : State := s.placeWord (tableWord nbits w)

end Sys2Proof.Machine
end

