-- ==== Sys2Proof/Safety.lean ====
section
/-! DEFINITION. What a safe run is, in the terms the statements use: the ring and binding invariants (R38, R39), `Ready` (R300), the
discipline of the synchronizer (R229, R230), what the sequencers' working registers hold in each state (R173, R193), the fairness of the
sequencers (R314), and what it means that memory changed nowhere else. -/

namespace Sys2Proof.Machine
open Sys2Proof

/-- The unit a command belongs to (R83); the request-word operations belong to MIIENG. -/
def unitOf : Instr → Option DrcUnit
  | .initRxRing | .receive _ | .pollRx => some .rxu
  | .initTxRing | .send => some .txu
  | .readPhy | .writePhy | .getMac | .setMac => some .miu
  | .miiRead _ _ | .miiWrite _ _ => none

/-- Every byte outside the `n` bytes from `a` up is as before. -/
def SameOutside (m m' : Memory) (a n : Nat) : Prop := ∀ x, x < a ∨ a + n ≤ x → m'.read x = m.read x

/-- Descriptor `i` of a ring of `n` at `base` points to the next one, the last to the first (R38, R111). -/
def RingClosed (m : Memory) (base : Word) (n : Nat) : Prop :=
  ∀ i, i < n → m.wordAt (w3Addr (descAddr base i)).toNat = descAddr base ((i + 1) % n)

/-- Every descriptor of a ring points to its own buffer (R39). -/
def BuffersBound (m : Memory) (base pool : Word) (n cap : Nat) : Prop :=
  ∀ i, i < n → m.wordAt (w2Addr (descAddr base i)).toNat = bufAddr pool cap i

/-- The ring invariant and the binding invariant of both rings (R38, R39). -/
def RingInv (s : State) : Prop :=
  RingClosed s.mem s.par.txdBase s.par.nTx ∧ RingClosed s.mem s.par.rxdBase s.par.nRx
    ∧ BuffersBound s.mem s.par.txdBase s.par.txbBase s.par.nTx s.par.capTx
    ∧ BuffersBound s.mem s.par.rxdBase s.par.rxbBase s.par.nRx s.par.capRx

/-- All three units are idle. -/
def State.unitsIdle (s : State) : Prop := s.busy .txu = false ∧ s.busy .rxu = false ∧ s.busy .miu = false

/-- `Ready` (R300), "the invariants of rule R297" read as all that R297 says holds after `RingInit`: beside the ring and binding
invariants, who owns each descriptor, both cursors and MACDMA's two positions at slot 0, `LOCKED = 1`. So a state in which a frame has
been filled or sent is no longer `Ready` itself, but reached from one that is. DESIGN CHOICE, log entry 26. -/
def Ready (s : State) : Prop :=
  s.macEn = true ∧ s.irqEn = true
    ∧ s.txBaseSet = true ∧ s.txBase = s.par.txdBase ∧ s.rxBaseSet = true ∧ s.rxBase = s.par.rxdBase
    ∧ RingInv s
    ∧ (∀ i, i < s.par.nRx → own (s.mem.wordAt (w0Addr (s.par.rxd i)).toNat) = true)
    ∧ (∀ i, i < s.par.nTx → own (s.mem.wordAt (w0Addr (s.par.txd i)).toNat) = false)
    ∧ s.txCur = s.par.txdBase ∧ s.rxCur = s.par.rxdBase ∧ s.locked = true
    ∧ s.dma.txPtr = s.par.txdBase ∧ s.dma.rxPtr = s.par.rxdBase
    ∧ s.unitsIdle ∧ s.syncFault = false

/-- A state that has not left the contract of the synchronizer: `SYNC_FAULT = 0` (R276). -/
def Safe (s : State) : Prop := s.syncFault = false

/-- One transfer in flight at most, from `copy_start` to the acquire that consumes its completion (R230): while TXU waits in
`T_ACQUIRE` exactly one of engine busy, flag pending, slot full holds; at every other time none does. -/
def SyncInv (s : State) : Prop :=
  s.par.copyCh < s.copy.tc.length ∧ s.syncFault = false ∧
  (if s.txu.state = .acquire then
    (s.copy.busy = true ∧ s.tcFlag = false ∧ s.locked = true)
      ∨ (s.copy.busy = false ∧ s.tcFlag = true ∧ s.locked = true)
      ∨ (s.copy.busy = false ∧ s.tcFlag = false ∧ s.locked = false)
   else s.copy.busy = false ∧ s.tcFlag = false ∧ s.locked = true)

/-- `T.i` fragments are staged, all of full length, and bytes remain (R173). -/
def Txu.staging (t : Txu) (p : Params) : Prop :=
  t.cnt = ceilDiv t.len.toNat p.capTx ∧ t.cnt ≤ p.nTx ∧ t.total.toNat = t.i * p.capTx
    ∧ t.total.toNat + t.rem.toNat = t.len.toNat ∧ t.rem ≠ 0#32

/-- All fragments are staged, at least one (R173). -/
def Txu.staged (t : Txu) (p : Params) : Prop :=
  t.cnt = ceilDiv t.len.toNat p.capTx ∧ t.cnt ≤ p.nTx ∧ t.i = t.cnt ∧ t.rem = 0#32 ∧ t.total = t.len ∧ t.len ≠ 0#32

/-- What TXU's working registers hold in each state of a `SEND` (R173, R176), and, while a transfer is in flight, that the engine was
told the payload it is part of (R76, log entry 16). -/
def TxuInv (s : State) : Prop :=
  match s.txu.state with
  | .idle | .check | .stuck => True
  | .waitOwn | .clear | .copyStart => s.txu.staging s.par
  | .acquire => s.txu.staging s.par ∧ s.txu.frag = min s.txu.rem.toNat s.par.capTx
      ∧ s.copy.payload = s.txu.src - s.txu.total ∧ s.copy.payloadLen = s.txu.len
  | .record => s.txu.staging s.par ∧ s.txu.frag = min s.txu.rem.toNat s.par.capTx
  | .flagFirst | .flagLast => s.txu.staged s.par
  | .grant => s.txu.staged s.par ∧ s.txu.j ≤ s.txu.cnt
  | .poll | .done => s.txu.staged s.par

/-- What RXU's working registers hold in each state of a `RECEIVE` (R191 to R194). -/
def RxuInv (s : State) : Prop :=
  match s.rxu.state with
  | .idle | .done | .stuck => True
  | .scan => s.rxu.k < s.par.nRx
  | .len => 1 ≤ s.rxu.k ∧ s.rxu.k ≤ s.par.nRx
  | .copy =>
    s.rxu.k ≤ s.par.nRx ∧ s.rxu.j ≤ s.rxu.k ∧ s.rxu.n + 4 ≤ s.rxu.k * s.par.capRx
      ∧ s.rxu.copied = min (s.rxu.j * s.par.capRx) s.rxu.n
      ∧ s.rxu.dst ≠ 0#32 ∧ s.rxu.n ≤ s.rxu.max.toNat ∧ s.rxu.res = BitVec.ofNat 32 s.rxu.n ∧ s.rxu.code = .ok
  | .retire => s.rxu.k ≤ s.par.nRx ∧ s.rxu.j ≤ s.rxu.k

/-- `d` is a descriptor of the transmit ring. -/
def State.txSlot (s : State) (d : Word) : Prop := ∃ i, i < s.par.nTx ∧ d = s.par.txd i

/-- `d` is a descriptor of the receive ring. -/
def State.rxSlot (s : State) (d : Word) : Prop := ∃ i, i < s.par.nRx ∧ d = s.par.rxd i

/-- The frame in progress began at slot `f`, and the transmit cursor is `T.i` slots on, modulo `N_TX` (R112, R173). -/
def State.txFrom (s : State) (f : Nat) : Prop :=
  f < s.par.nTx ∧ s.txu.first = s.par.txd f ∧ s.txCur = s.par.txd ((f + s.txu.i) % s.par.nTx)

/-- Where TXU's pointers stand in each state: fragment `f` of a frame goes to the `f`-th slot from `T.first`, `T.last` is the slot staged
last, `T.g` the slot granted next (R166, R169, R173). -/
def State.txWalk (s : State) : Prop :=
  match s.txu.state with
  | .idle | .check | .stuck => s.txSlot s.txCur
  | .waitOwn | .clear | .copyStart | .acquire | .record | .poll | .done => ∃ f, s.txFrom f
  | .flagFirst | .flagLast => ∃ f, s.txFrom f ∧ s.txu.last = s.par.txd ((f + (s.txu.i - 1)) % s.par.nTx)
  | .grant => ∃ f, s.txFrom f ∧ s.txu.g = s.par.txd ((f + s.txu.j) % s.par.nTx)

/-- The receive cursor is at slot `c`. -/
def State.rxFrom (s : State) (c : Nat) : Prop := c < s.par.nRx ∧ s.rxCur = s.par.rxd c

/-- Where RXU's pointers stand in each state: the scan is `R.k` slots past the cursor, the copy `R.j` (R191, R193, R194). -/
def State.rxWalk (s : State) : Prop :=
  match s.rxu.state with
  | .idle | .len | .retire | .done | .stuck => ∃ c, s.rxFrom c
  | .scan => ∃ c, s.rxFrom c ∧ s.rxu.p = s.par.rxd ((c + s.rxu.k) % s.par.nRx)
  | .copy => ∃ c, s.rxFrom c ∧ s.rxu.q = s.par.rxd ((c + s.rxu.j) % s.par.nRx)

/-- The descriptor at `d` is hardware-owned (R40). -/
def State.hwOwned (s : State) (d : Word) : Bool := own (s.mem.wordAt (w0Addr d).toNat)

/-- The slots, counted from `T.first`, that TXU has found software-owned and not yet granted: from the first number up to, not including,
the second (R162, R169). -/
def Txu.held (t : Txu) : Nat × Nat :=
  match t.state with
  | .waitOwn | .flagFirst | .flagLast => (0, t.i)
  | .clear | .copyStart | .acquire | .record => (0, t.i + 1)
  | .grant => (t.j, t.i)
  | .idle | .check | .poll | .done | .stuck => (0, 0)

/-- How many slots from the cursor on RXU has gathered and not yet returned (R191, R194). -/
def Rxu.held (r : Rxu) : Nat :=
  match r.state with
  | .scan | .len | .copy => r.k
  | .retire => r.k - r.j
  | .idle | .done | .stuck => 0

/-- What TXU holds is software-owned (R40, R73). -/
def State.txHeld (s : State) : Prop :=
  ∀ f k, s.txFrom f → s.txu.held.1 ≤ k → k < s.txu.held.2 → s.hwOwned (s.par.txd ((f + k) % s.par.nTx)) = false

/-- What RXU has gathered is software-owned (R40, R73). -/
def State.rxHeld (s : State) : Prop :=
  ∀ c k, s.rxFrom c → k < s.rxu.held → s.hwOwned (s.par.rxd ((c + k) % s.par.nRx)) = false

/-- Both rings whole and every pointer into them where it belongs. -/
structure RingsSound (s : State) : Prop where
  /-- The ring and binding invariants (R38, R39). -/
  rings : RingInv s
  /-- The transmit cursor and TXU's pointers (R27, R173). -/
  txWalk : s.txWalk
  /-- The receive cursor and RXU's pointers (R27, R191). -/
  rxWalk : s.rxWalk
  /-- The descriptors TXU works on are software-owned (R40, R75). -/
  txHeld : s.txHeld
  /-- The descriptors RXU has gathered are software-owned (R40, R75). -/
  rxHeld : s.rxHeld
  /-- MACDMA's transmit position, once the base is written (R243). -/
  txPtr : s.txBaseSet = true → s.txSlot s.dma.txPtr
  /-- MACDMA's receive position, once the base is written (R243). -/
  rxPtr : s.rxBaseSet = true → s.rxSlot s.dma.rxPtr
  /-- A transfer in flight goes to a buffer and fits it (R164). -/
  copyDst : s.copy.busy = true → (∃ i, i < s.par.nTx ∧ s.copy.dst = s.par.txb i) ∧ s.copy.len ≤ s.par.capTx
  /-- No receive descriptor offers more than its buffer (R113). -/
  rxLens : ∀ i, i < s.par.nRx → (s.mem.wordAt (w1Addr (s.par.rxd i)).toNat).toNat % 65536 ≤ s.par.capRx

/-- What RXU copies next keeps off both descriptor arrays (R190: HOST's destination overlaps no ring). -/
def State.destinationApart (s : State) : Prop :=
  s.rxu.state = .copy → ∀ x, inRange ((s.rxu.dst + BitVec.ofNat 32 s.rxu.copied).toNat, s.copyLen) x = true →
    inRange (s.par.txdBase.toNat, 16 * s.par.nTx) x = false ∧ inRange (s.par.rxdBase.toNat, 16 * s.par.nRx) x = false

/-- A run without end: each state is the next of the one before it. -/
def IsRun (run : Nat → State) : Prop := ∀ n, step (run n) = .next (run (n + 1))

/-- The turn in which a unit's sequencer takes its step. -/
def unitTurn : DrcUnit → Turn
  | .txu => .txu
  | .rxu => .rxu
  | .miu => .miu

/-- "The sequencers themselves are taken to be fair: a sequencer that is not idle eventually takes its next step" (R314). The other
agents are not: no such thing is said of them. A claim that something happens at last has this premise (log entry 2). -/
def SequencersFair (run : Nat → State) : Prop :=
  ∀ n u, (run n).busy u = true → ∃ m, n ≤ m ∧ ((run m).nextTurn = unitTurn u ∨ (run m).busy u = false)

/-- The values R47 gives for reset, with nothing said of what it leaves unspecified. -/
def IsReset (s : State) : Prop :=
  s.arg0 = 0#32 ∧ s.arg1 = 0#32 ∧ s.arg2 = 0#32 ∧ s.statusWord = 0#32 ∧ s.cmdFault = .noFault ∧ s.ctrlWord = 0#32
    ∧ s.txResult = 0#32 ∧ s.txCode = .ok ∧ s.rxResult = 0#32 ∧ s.rxCode = .ok ∧ s.miiResult = 0#32 ∧ s.miiCode = .ok
    ∧ s.txBase = 0#32 ∧ s.rxBase = 0#32 ∧ s.txBaseSet = false ∧ s.rxBaseSet = false
    ∧ s.txCur = 0#32 ∧ s.rxCur = 0#32 ∧ s.locked = true
    ∧ s.miiReq = 0#32 ∧ s.miiData = 0#16 ∧ s.macHi = 0#32 ∧ s.macLo = 0#32
    ∧ s.txu.state = .idle ∧ s.rxu.state = .idle ∧ s.miu.state = .idle
    ∧ s.copy.busy = false ∧ (∀ c, s.copy.tc.getD c false = false)
    ∧ s.dma.txRun = false ∧ s.dma.txOpen = false ∧ s.dma.rxOpen = false ∧ s.dma.rxFirst = true
    ∧ s.dma.txAcc = [] ∧ s.dma.rxPend = [] ∧ s.events = []

end Sys2Proof.Machine
end

