-- ==== Sys2Proof/Certificates/Slice0/Obligations.lean ====
section
/-! DEFINITION. The statements for the provers, by file of the spec. A turn of an agent is `turnStep`; a command or a request word is
run by `exec`; `step` takes the next turn. -/

open Sys2Proof Sys2Proof.Machine

/-! Encodings (30_encoding.md). -/

/-- Decoding the word an instruction encodes to gives the instruction back in its own format, with every operand; and a word
that decodes is that instruction's word: all of it in CMD, all but the ignored reserved bits in MIIREQ (R81 to R84, R90). -/
def Obligations.DecodeEncodeAgree : Prop :=
  (∀ i : Instr, decode i.format (encode i) = .ok i)
    ∧ (∀ w i, decode .cmd w = .ok i → i.format = .cmd ∧ encode i = w)
    ∧ (∀ w i, decode .miireq w = .ok i → i.format = .miireq ∧ encode i = w &&& 0x0000FFC3#32)

/-- Words of the spec's vectors V-CMD-1 to V-CMD-17 and V-MII-1 to V-MII-6 decode to what the vectors say. -/
def Obligations.VectorWordsDecode : Prop :=
  decode .cmd 0x00000001#32 = .ok .initRxRing ∧ decode .cmd 0x00000002#32 = .ok .initTxRing
    ∧ decode .cmd 0x00000003#32 = .ok .send ∧ decode .cmd 0x00000004#32 = .ok (.receive false)
    ∧ decode .cmd 0x00000104#32 = .ok (.receive true) ∧ decode .cmd 0x00000005#32 = .ok .pollRx
    ∧ decode .cmd 0x00000006#32 = .ok .readPhy ∧ decode .cmd 0x00000007#32 = .ok .writePhy
    ∧ decode .cmd 0x00000008#32 = .ok .getMac ∧ decode .cmd 0x00000009#32 = .ok .setMac
    ∧ decode .cmd 0x00000000#32 = .error .illegalOp ∧ decode .cmd 0x0000000A#32 = .error .illegalOp
    ∧ decode .cmd 0x000000FF#32 = .error .illegalOp ∧ decode .cmd 0x00000103#32 = .error .reservedBits
    ∧ decode .cmd 0x00000204#32 = .error .reservedBits ∧ decode .cmd 0x80000003#32 = .error .reservedBits
    ∧ decode .cmd 0x0000010A#32 = .error .reservedBits
    ∧ decode .miireq 0x00000881#32 = .ok (.miiRead 1#5 2#5) ∧ decode .miireq 0x00000803#32 = .ok (.miiWrite 1#5 0#5)
    ∧ decode .miireq 0x0000FFC1#32 = .ok (.miiRead 31#5 31#5) ∧ decode .miireq 0x0000FFC3#32 = .ok (.miiWrite 31#5 31#5)
    ∧ decode .miireq 0x00000001#32 = .ok (.miiRead 0#5 0#5) ∧ decode .miireq 0xABCD08BD#32 = .ok (.miiRead 1#5 2#5)

/-! Steps (00_scope.md, 30_encoding.md, 60_exceptions.md). -/

/-- A step whose next turn is HOST's, HOST's next access being a write to `CMD` of a word that decodes, runs the decoded
instruction in the state with that turn and that access taken. -/
def Obligations.StepRunsDecodedCommand : Prop :=
  ∀ (s : State) (ts : List Turn) (q : List HostOp) (w : Word) (i : Instr), decode .cmd w = .ok i →
    step { s with sched := .host :: ts, hostQ := .regWrite 0x00 4 w :: q } = exec i { s with sched := ts, hostQ := q }

/-- A step whose next turn is MIIENG's, `MII_REQ` holding a word that decodes, runs the decoded operation in the state with that
turn taken (R90, R141). Any step whose next turn is listed is that agent's turn in the state with the turn taken: that the turns are
listed, and taken in the list's order, is the model's choice (log entry 2); R8 says only that any enabled step may be next. -/
def Obligations.StepRunsDecodedRequest : Prop :=
  (∀ (s : State) (ts : List Turn) (i : Instr), decode .miireq s.miiReq = .ok i →
      step { s with sched := .miieng :: ts } = exec i { s with sched := ts })
    ∧ (∀ (s : State) (t : Turn) (ts : List Turn), step { s with sched := t :: ts } = turnStep t { s with sched := ts })

/-- A write to `CMD` is refused with the first reason that applies, in the order `RESERVED_BITS`, `ILLEGAL_OP`, `UNIT_BUSY`,
`NOT_ALLOWED`, and then only `CMD_FAULT` changes (beside HOST's own queue); an accepted write leaves `CMD_FAULT` at `NONE` (R266). -/
def Obligations.RefusalChangesOnlyCmdFault : Prop :=
  ∀ (s : State) (q : List HostOp) (w : Word),
    let reserved := w.toNat / 512 ≠ 0 ∨ (w.toNat / 256 % 2 = 1 ∧ w.toNat % 256 ≠ 4)
    let illegal := w.toNat % 256 = 0 ∨ 10 ≤ w.toNat % 256
    let refusedWith := fun r : CmdFault =>
      turnStep .host { s with hostQ := .regWrite 0x00 4 w :: q } = .next { s with hostQ := q, cmdFault := r }
    (reserved → refusedWith .reservedBits)
      ∧ (¬reserved → illegal → refusedWith .illegalOp)
      ∧ ∀ i u, decode .cmd w = .ok i → unitOf i = some u →
          (s.busy u = true → refusedWith .unitBusy)
          ∧ (s.busy u = false → (i = .initRxRing ∨ i = .initTxRing) → s.macEn = true → refusedWith .notAllowed)
          ∧ (s.busy u = false → ¬((i = .initRxRing ∨ i = .initTxRing) ∧ s.macEn = true) →
              ∃ t, turnStep .host { s with hostQ := .regWrite 0x00 4 w :: q } = .next t ∧ t.cmdFault = .noFault)

/-! Rings (40_ring.md). -/

/-- `INIT_RX_RING`, RXU idle and `MAC_EN = 0`, completes in one step: the descriptors of the receive ring are as R113 says, `RX_CUR`
is at slot 0, the result is (0, `OK`); no other byte of memory and no other register changes. -/
def Obligations.InitRxRingBuildsTheRing : Prop :=
  ∀ s : State, s.par.wf = true → s.mem.wf = true → s.busy .rxu = false → s.macEn = false →
    ∃ t, exec .initRxRing s = .next t
      ∧ (∀ i, i < s.par.nRx →
          t.mem.wordAt (w0Addr (s.par.rxd i)).toNat = 0x80000000#32
          ∧ t.mem.wordAt (w1Addr (s.par.rxd i)).toNat = 0x40000000#32 + BitVec.ofNat 32 s.par.capRx
          ∧ t.mem.wordAt (w2Addr (s.par.rxd i)).toNat = s.par.rxbBase + BitVec.ofNat 32 (i * s.par.capRx)
          ∧ t.mem.wordAt (w3Addr (s.par.rxd i)).toNat = s.par.rxdBase + BitVec.ofNat 32 (16 * ((i + 1) % s.par.nRx)))
      ∧ SameOutside s.mem t.mem s.par.rxdBase.toNat (16 * s.par.nRx)
      ∧ t = { s with cmdFault := .noFault, rxCur := s.par.rxdBase, rxResult := 0#32, rxCode := .ok, mem := t.mem }

/-- `INIT_TX_RING`, TXU idle and `MAC_EN = 0`, completes in one step: the descriptors of the transmit ring are as R114 says, `TX_CUR`
is at slot 0, the synchronizer is locked, the result is (0, `OK`); no other byte of memory and no other register changes. -/
def Obligations.InitTxRingBuildsTheRing : Prop :=
  ∀ s : State, s.par.wf = true → s.mem.wf = true → s.busy .txu = false → s.macEn = false →
    ∃ t, exec .initTxRing s = .next t
      ∧ (∀ i, i < s.par.nTx →
          t.mem.wordAt (w0Addr (s.par.txd i)).toNat = 0#32
          ∧ t.mem.wordAt (w1Addr (s.par.txd i)).toNat = 0x60000000#32
          ∧ t.mem.wordAt (w2Addr (s.par.txd i)).toNat = s.par.txbBase + BitVec.ofNat 32 (i * s.par.capTx)
          ∧ t.mem.wordAt (w3Addr (s.par.txd i)).toNat = s.par.txdBase + BitVec.ofNat 32 (16 * ((i + 1) % s.par.nTx)))
      ∧ SameOutside s.mem t.mem s.par.txdBase.toNat (16 * s.par.nTx)
      ∧ t = { s with cmdFault := .noFault, txCur := s.par.txdBase, locked := true, txResult := 0#32, txCode := .ok,
                     mem := t.mem }

/-- In a ring closed as R111 says, `m` cursor advances from slot `i` end at slot `(i + m) mod N`, so `N` advances come back (R112). -/
def Obligations.CursorAdvancesModuloRingSize : Prop :=
  ∀ (s : State) (base : Word) (n : Nat), RingClosed s.mem base n →
    (∀ i, i < n → s.admitsWord (w3Addr (descAddr base i)) = true) →
    ∀ i, i < n →
      (∀ m, s.advance m (descAddr base i) = some (descAddr base ((i + m) % n)))
      ∧ s.advance n (descAddr base i) = some (descAddr base i)

/-- The first HOST write to `TX_BASE` or `RX_BASE` stores the value, sets the flag and loads MACDMA's position; a later one changes
nothing; a read returns the stored value (R26). -/
def Obligations.BaseRegistersAreWrittenOnce : Prop :=
  ∀ (s : State) (q : List HostOp) (v : Word),
    (turnStep .host { s with hostQ := .regWrite 0x40 4 v :: q } =
      if s.txBaseSet then .next { s with hostQ := q }
      else .next { s with hostQ := q, txBase := v, txBaseSet := true, dma := { s.dma with txPtr := v } })
    ∧ (turnStep .host { s with hostQ := .regWrite 0x44 4 v :: q } =
      if s.rxBaseSet then .next { s with hostQ := q }
      else .next { s with hostQ := q, rxBase := v, rxBaseSet := true, dma := { s.dma with rxPtr := v } })
    ∧ turnStep .host { s with hostQ := .regRead 0x40 4 :: q } = .next { s with hostQ := q, hostRd := s.txBase }
    ∧ turnStep .host { s with hostQ := .regRead 0x44 4 :: q } = .next { s with hostQ := q, hostRd := s.rxBase }

/-! The register window (10_state.md, 20_memory.md, 41_phy_mac.md). -/

/-- Reading `STATUS` returns bit 0, 1, 2 as TXU, RXU, MIU is not idle, bit 8 as `SYNC_FAULT`, every other bit 0 (R22); a write to it, or to
any other read-only register (`CMD_FAULT`, the result and code registers, `TX_CUR`, `RX_CUR`, `SYNC`), changes nothing (R33, U7). -/
def Obligations.StatusShowsBusyUnits : Prop :=
  ∀ (s : State) (q : List HostOp) (v : Word),
    (∃ w : Word, turnStep .host { s with hostQ := .regRead 0x10 4 :: q } = .next { s with hostQ := q, hostRd := w }
      ∧ w.getLsbD 0 = decide (s.txu.state ≠ .idle) ∧ w.getLsbD 1 = decide (s.rxu.state ≠ .idle)
      ∧ w.getLsbD 2 = decide (s.miu.state ≠ .idle) ∧ w.getLsbD 8 = s.syncFault
      ∧ ∀ b, b ≠ 0 → b ≠ 1 → b ≠ 2 → b ≠ 8 → w.getLsbD b = false)
    ∧ ∀ off, off = 0x10 ∨ off = 0x14 ∨ off = 0x20 ∨ off = 0x24 ∨ off = 0x28 ∨ off = 0x2C ∨ off = 0x30 ∨ off = 0x34
          ∨ off = 0x48 ∨ off = 0x4C ∨ off = 0x60 →
        turnStep .host { s with hostQ := .regWrite off 4 v :: q } = .next { s with hostQ := q }

/-- A HOST write to `CTRL` sets `MAC_EN` and `IRQ_EN` from bits 0 and 1 and ignores the rest; while `MAC_EN = 0` MACDMA has no
step and while `IRQ_EN = 0` IRQ has none (R24). -/
def Obligations.CtrlGatesMacDmaAndIrq : Prop :=
  (∀ (s : State) (q : List HostOp) (v : Word),
    turnStep .host { s with hostQ := .regWrite 0x18 4 v :: q } =
      .next { s with hostQ := q, macEn := v.getLsbD 0, irqEn := v.getLsbD 1 })
  ∧ (∀ s : State, s.macEn = false →
      turnStep .dmaTransmit s = .next s ∧ turnStep .dmaSuspend s = .next s
      ∧ turnStep .dmaFill s = .next s ∧ turnStep .dmaArrive s = .next s)
  ∧ (∀ s : State, s.irqEn = false → turnStep .irq s = .next s)
  ∧ (∀ (s : State) (q : List HostOp), ∃ w : Word,
      turnStep .host { s with hostQ := .regRead 0x18 4 :: q } = .next { s with hostQ := q, hostRd := w }
      ∧ w.getLsbD 0 = s.macEn ∧ w.getLsbD 1 = s.irqEn ∧ ∀ b, 2 ≤ b → w.getLsbD b = false)

/-- No register read has a side effect: whatever the offset and width, only HOST's own queue, the value it got and the count of
free values change (R66). What each register of R33 reads as (`STATUS`, `CTRL`, the base registers and `TX_POLL` apart, each with a
statement of its own), the reasons and the codes by the numbers of R23 and R93. `ARG0` to `ARG2` are plain storage: a write stores the word
in that register and nowhere else (R21). -/
def Obligations.RegisterReadsHaveNoSideEffect : Prop :=
  (∀ (s : State) (q : List HostOp) (off width : Nat), ∃ (w : Word) (n : Nat),
    turnStep .host { s with hostQ := .regRead off width :: q } = .next { s with hostQ := q, hostRd := w, draws := n })
  ∧ (∀ (s : State) (q : List HostOp),
    let reads := fun (off : Nat) (w : Word) =>
      turnStep .host { s with hostQ := .regRead off 4 :: q } = .next { s with hostQ := q, hostRd := w }
    let reason : CmdFault → Word := fun
      | .noFault => 0#32 | .illegalOp => 1#32 | .unitBusy => 2#32 | .reservedBits => 3#32 | .notAllowed => 4#32
    let code : Code → Word := fun
      | .ok => 0#32 | .fragOverflow => 1#32 | .rxOverflow => 2#32 | .noData => 3#32 | .hwTimeout => 4#32 | .malformed => 5#32
    reads 0x00 0#32 ∧ reads 0x04 s.arg0 ∧ reads 0x08 s.arg1 ∧ reads 0x0C s.arg2 ∧ reads 0x14 (reason s.cmdFault)
      ∧ reads 0x20 s.txResult ∧ reads 0x24 (code s.txCode) ∧ reads 0x28 s.rxResult ∧ reads 0x2C (code s.rxCode)
      ∧ reads 0x30 s.miiResult ∧ reads 0x34 (code s.miiCode) ∧ reads 0x48 s.txCur ∧ reads 0x4C s.rxCur
      ∧ reads 0x60 (if s.locked then 1#32 else 0#32) ∧ reads 0x80 s.miiReq ∧ reads 0x84 (0#16 ++ s.miiData)
      ∧ reads 0x88 s.macHi ∧ reads 0x8C s.macLo)
  ∧ ∀ (s : State) (q : List HostOp) (v : Word),
      turnStep .host { s with hostQ := .regWrite 0x04 4 v :: q } = .next { s with hostQ := q, arg0 := v }
      ∧ turnStep .host { s with hostQ := .regWrite 0x08 4 v :: q } = .next { s with hostQ := q, arg1 := v }
      ∧ turnStep .host { s with hostQ := .regWrite 0x0C 4 v :: q } = .next { s with hostQ := q, arg2 := v }

/-- An access of another width, or to an offset the table of R33 does not list, is refused: a write changes nothing; a read
returns a value (a free one) and changes nothing else (R33). -/
def Obligations.UnlistedAccessIsRefused : Prop :=
  ∀ (s : State) (q : List HostOp) (off width : Nat) (v : Word),
    (width ≠ 4 ∨ off % 4 ≠ 0 ∨ off = 0x1C ∨ (0x38 ≤ off ∧ off ≤ 0x3F) ∨ (0x54 ≤ off ∧ off ≤ 0x5F) ∨ (0x64 ≤ off ∧ off ≤ 0x7F)
      ∨ 0x90 ≤ off) →
    turnStep .host { s with hostQ := .regWrite off width v :: q } = .next { s with hostQ := q }
    ∧ ∃ w : Word, turnStep .host { s with hostQ := .regRead off width :: q } =
        .next { s with hostQ := q, hostRd := w, draws := s.draws + 1 }

/-- While MIU is busy HOST writes to `MII_REQ`, `MII_DATA`, `MAC_ADDR_HI`, `MAC_ADDR_LO` change nothing; while it is idle they are
stored, except that a 0 written to `MII_REQ.BUSY` does not clear it (R30, R31, R32, R147). Of the other bits of `MII_REQ` after a write
with an access in flight nothing is said (U9, log entry 15). -/
def Obligations.MiuRegistersAreProtectedWhileBusy : Prop :=
  ∀ (s : State) (q : List HostOp) (v : Word),
    (s.miu.state ≠ .idle → ∀ off, off = 0x80 ∨ off = 0x84 ∨ off = 0x88 ∨ off = 0x8C →
      turnStep .host { s with hostQ := .regWrite off 4 v :: q } = .next { s with hostQ := q })
    ∧ (s.miu.state = .idle →
      (∃ w : Word, turnStep .host { s with hostQ := .regWrite 0x80 4 v :: q } = .next { s with hostQ := q, miiReq := w }
        ∧ w.getLsbD 0 = (v.getLsbD 0 || s.miiReq.getLsbD 0)
        ∧ (s.miiReq.getLsbD 0 = false → ∀ b, 1 ≤ b → w.getLsbD b = v.getLsbD b))
      ∧ turnStep .host { s with hostQ := .regWrite 0x84 4 v :: q } = .next { s with hostQ := q, miiData := v.setWidth 16 }
      ∧ turnStep .host { s with hostQ := .regWrite 0x88 4 v :: q } = .next { s with hostQ := q, macHi := v }
      ∧ turnStep .host { s with hostQ := .regWrite 0x8C 4 v :: q } = .next { s with hostQ := q, macLo := v })

/-- Any HOST write to `TX_POLL`, of any value, and TXU's own in `T_POLL`, set `MACDMA.tx_run` and record `TxPoll`; nothing is stored and
a read returns 0 (R28, R170, R244). -/
def Obligations.PollSignalRestartsTransmit : Prop :=
  ∀ (s : State) (q : List HostOp) (v : Word),
    turnStep .host { s with hostQ := .regWrite 0x50 4 v :: q } =
      .next { s with hostQ := q, dma := { s.dma with txRun := true }, events := s.events ++ [.txPoll] }
    ∧ turnStep .host { s with hostQ := .regRead 0x50 4 :: q } = .next { s with hostQ := q, hostRd := 0#32 }
    ∧ (s.txu.state = .poll → turnStep .txu s =
        .next { s with dma := { s.dma with txRun := true }, events := s.events ++ [.txPoll],
                       txu := { s.txu with state := .done } })

/-! PHY and MAC address registers (41_phy_mac.md). -/

/-- `READ_PHY` and `WRITE_PHY` are accepted while MIU is idle: the operands are latched (5 bits, 5 bits, 16 bits), the count of polls is
0 and MIU is in `M_WAIT1`; nothing else changes but `CMD_FAULT` (R131, R138). -/
def Obligations.PhyCommandsAreAccepted : Prop :=
  ∀ s : State, s.busy .miu = false →
    (∃ pa ri, exec .readPhy s = .next { s with
        cmdFault := .noFault, miu := { s.miu with pa := pa, ri := ri, wr := false, polls := 0, state := .wait1 } }
      ∧ pa.toNat = s.arg0.toNat % 32 ∧ ri.toNat = s.arg1.toNat % 32)
    ∧ (∃ pa ri val, exec .writePhy s = .next { s with
        cmdFault := .noFault, miu := { pa := pa, ri := ri, val := val, wr := true, polls := 0, state := .wait1 } }
      ∧ pa.toNat = s.arg0.toNat % 32 ∧ ri.toNat = s.arg1.toNat % 32 ∧ val.toNat = s.arg2.toNat % 65536)

/-- The steps of MIU in the document's order: wait while the engine is busy (with no bound on the waits nothing changes), write the
request word keeping its reserved bits, for a write write the data register, wait again, for a read read it back, report (R132 to R137,
R139). -/
def Obligations.PhyProtocolRunsInOrder : Prop :=
  ∀ s : State,
    (s.miu.state = .wait1 → s.miiReq.getLsbD 0 = true → s.par.waitBudget = none → turnStep .miu s = .next s)
    ∧ (s.miu.state = .wait1 → s.miiReq.getLsbD 0 = false →
        turnStep .miu s = .next { s with miu := { s.miu with polls := 0, state := .req } })
    ∧ (s.miu.state = .req → ∃ w : Word,
        turnStep .miu s = .next { s with miiReq := w, miu := { s.miu with state := if s.miu.wr then .data else .wait2 } }
        ∧ w.toNat = s.miiReq.toNat / 65536 * 65536 + s.miu.pa.toNat * 2048 + s.miu.ri.toNat * 64
            + s.miiReq.toNat / 4 % 16 * 4 + (if s.miu.wr then 2 else 0) + 1)
    ∧ (s.miu.state = .data →
        turnStep .miu s = .next { s with miiData := s.miu.val, miu := { s.miu with state := .wait2 } })
    ∧ (s.miu.state = .wait2 → s.miiReq.getLsbD 0 = true → s.par.waitBudget = none → turnStep .miu s = .next s)
    ∧ (s.miu.state = .wait2 → s.miiReq.getLsbD 0 = false →
        turnStep .miu s = .next { s with miu := { s.miu with state := if s.miu.wr then .done else .read } })
    ∧ (s.miu.state = .read →
        turnStep .miu s = .next { s with miu := { s.miu with val := s.miiData, state := .done } })
    ∧ (s.miu.state = .done →
        turnStep .miu s = .next { s with miiResult := if s.miu.wr then 0#32 else s.miu.val.setWidth 32, miiCode := .ok,
                                         miu := { s.miu with state := .idle } })

/-- With a budget of `b` polls, an unsuccessful poll in either wait counts, and the `b`-th ends the command with (-4, `HW_TIMEOUT`),
the access still in flight; before that only the count changes (R140). So, the sequencers being fair (R314) and whatever the other agents
do or leave undone, a run in which a PHY command is in progress comes to a state in which MIU is idle. -/
def Obligations.BoundedWaitTimesOut : Prop :=
  (∀ (s : State) (b : Nat), s.par.waitBudget = some b → (s.miu.state = .wait1 ∨ s.miu.state = .wait2) →
    s.miiReq.getLsbD 0 = true →
    (s.miu.polls + 1 < b → turnStep .miu s = .next { s with miu := { s.miu with polls := s.miu.polls + 1 } })
    ∧ (b ≤ s.miu.polls + 1 → turnStep .miu s =
        .next { s with miiResult := 0xFFFFFFFC#32, miiCode := .hwTimeout,
                       miu := { s.miu with polls := s.miu.polls + 1, state := .idle } }))
  ∧ ∀ (run : Nat → State) (b n : Nat), IsRun run → SequencersFair run → (run n).par.waitBudget = some b →
      (run n).miu.state ≠ .stuck → ∃ m, n ≤ m ∧ (run m).busy .miu = false

/-- `MII_READ`, the transceiver responding and no hold in force, completes: some value is in `MII_DATA`, `BUSY` is 0 and the other bits of
`MII_REQ` are kept, `PhyRead` with that value is recorded, nothing else changes (R141). The value is a free value: the statement
says nothing of it. -/
def Obligations.MiiReadPerformsTheAccess : Prop :=
  ∀ (s : State) (pa ri : BitVec 5), s.par.phyResponds.getLsbD pa.toNat = true →
    (s.par.miiDataRace = true ∨ s.miu.state ≠ .data) →
    ∃ (v : BitVec 16) (w : Word),
      exec (.miiRead pa ri) s = .next { s with miiData := v, miiReq := w, draws := s.draws + 1,
                                               events := s.events ++ [.phyRead pa ri v] }
      ∧ w.getLsbD 0 = false ∧ ∀ b, 1 ≤ b → w.getLsbD b = s.miiReq.getLsbD b

/-- `MII_WRITE`, the transceiver responding and no hold in force, completes: `PhyWrite` with `MII_DATA` as it stands at this step is
recorded, `BUSY` is 0 and the other bits of `MII_REQ` are kept, nothing else changes (R141). -/
def Obligations.MiiWritePerformsTheAccess : Prop :=
  ∀ (s : State) (pa ri : BitVec 5), s.par.phyResponds.getLsbD pa.toNat = true →
    (s.par.miiDataRace = true ∨ s.miu.state ≠ .data) →
    ∃ w : Word,
      exec (.miiWrite pa ri) s = .next { s with miiReq := w, events := s.events ++ [.phyWrite pa ri s.miiData] }
      ∧ w.getLsbD 0 = false ∧ ∀ b, 1 ≤ b → w.getLsbD b = s.miiReq.getLsbD b

/-- The engine does not act while `BUSY = 0`, for a transceiver that does not respond, or, with `MII_DATA_RACE = false`, between
MIU's request write and its data write: its turn changes nothing (R141, R142). -/
def Obligations.EngineIsHeld : Prop :=
  ∀ s : State,
    (s.miiReq.getLsbD 0 = false
      ∨ s.par.phyResponds.getLsbD (s.miiReq.toNat / 2048 % 32) = false
      ∨ (s.par.miiDataRace = false ∧ s.miu.state = .data)) →
    turnStep .miieng s = .next s

/-- `SET_MAC`, MIU idle and its six bytes mapped, completes: the bytes are in the address registers big-endian, `MAC_ADDR_HI[31:16]` is
kept, the result is (0, `OK`), nothing else changes (R144). -/
def Obligations.SetMacLoadsAddressRegisters : Prop :=
  ∀ s : State, s.busy .miu = false → s.par.mappedRange s.arg0.toNat 6 = true →
    ∃ hi lo : Word,
      exec .setMac s = .next { s with cmdFault := .noFault, macHi := hi, macLo := lo, miiResult := 0#32, miiCode := .ok }
      ∧ hi.toNat = s.macHi.toNat / 65536 * 65536 + (s.mem.read s.arg0.toNat).toNat * 256
          + (s.mem.read (s.arg0.toNat + 1)).toNat
      ∧ lo.toNat = (s.mem.read (s.arg0.toNat + 2)).toNat * 16777216 + (s.mem.read (s.arg0.toNat + 3)).toNat * 65536
          + (s.mem.read (s.arg0.toNat + 4)).toNat * 256 + (s.mem.read (s.arg0.toNat + 5)).toNat

/-- `GET_MAC`, MIU idle and its six bytes mapped, completes: the array holds the six bytes of the address registers, every other byte
of memory is as before, the result is (0, `OK`), nothing else changes (R145). -/
def Obligations.GetMacStoresSixBytes : Prop :=
  ∀ s : State, s.mem.wf = true → s.busy .miu = false → s.par.mappedRange s.arg0.toNat 6 = true →
    ∃ t, exec .getMac s = .next t
      ∧ t = { s with cmdFault := .noFault, miiResult := 0#32, miiCode := .ok, mem := t.mem }
      ∧ SameOutside s.mem t.mem s.arg0.toNat 6
      ∧ (t.mem.read s.arg0.toNat).toNat = s.macHi.toNat / 256 % 256
      ∧ (t.mem.read (s.arg0.toNat + 1)).toNat = s.macHi.toNat % 256
      ∧ (t.mem.read (s.arg0.toNat + 2)).toNat = s.macLo.toNat / 16777216
      ∧ (t.mem.read (s.arg0.toNat + 3)).toNat = s.macLo.toNat / 65536 % 256
      ∧ (t.mem.read (s.arg0.toNat + 4)).toNat = s.macLo.toNat / 256 % 256
      ∧ (t.mem.read (s.arg0.toNat + 5)).toNat = s.macLo.toNat % 256

/-- `SET_MAC p` then `GET_MAC q` leaves at `q` the six bytes that were at `p` (the law of R145). -/
def Obligations.GetMacReturnsWhatSetMacTook : Prop :=
  ∀ (s : State) (p q : Word), s.mem.wf = true → s.busy .miu = false →
    s.par.mappedRange p.toNat 6 = true → s.par.mappedRange q.toNat 6 = true →
    ∃ t u, exec .setMac { s with arg0 := p } = .next t ∧ exec .getMac { t with arg0 := q } = .next u
      ∧ ∀ i, i < 6 → u.mem.read (q.toNat + i) = s.mem.read (p.toNat + i)

/-- A one-step command accepted whose access the machine does not admit (`POLL_RX` at a cursor that is not a readable word, `SET_MAC` or
`GET_MAC` of an array not wholly mapped) leaves its unit busy with no step enabled, nothing else changed but `CMD_FAULT` (R64, R76, U8; that
acceptance itself happens is the model's reading, log entry 11). -/
def Obligations.UnadmittedAccessHangsTheUnit : Prop :=
  ∀ s : State,
    (s.busy .rxu = false → s.admitsWord s.rxCur = false →
      ∃ t, exec .pollRx s = .next t ∧ t = { s with cmdFault := .noFault, rxu := { s.rxu with state := t.rxu.state } }
        ∧ t.busy .rxu = true ∧ turnStep .rxu t = .next t)
    ∧ (s.busy .miu = false → s.par.mappedRange s.arg0.toNat 6 = false → ∀ i, i = .setMac ∨ i = .getMac →
      ∃ t, exec i s = .next t ∧ t = { s with cmdFault := .noFault, miu := { s.miu with state := t.miu.state } }
        ∧ t.busy .miu = true ∧ turnStep .miu t = .next t)

/-! The transmit path (42_transmit.md). -/

/-- `SEND` is accepted while TXU is idle: source and length are latched and TXU is in `T_CHECK`; nothing else changes but `CMD_FAULT`
(R160). -/
def Obligations.SendIsAccepted : Prop :=
  ∀ s : State, s.busy .txu = false →
    exec .send s = .next { s with cmdFault := .noFault,
                                  txu := { s.txu with src := s.arg0, len := s.arg1, state := .check } }

/-- `T_CHECK`: a length over `N_TX * CAP_TX` ends the command with (-1, `FRAG_OVERFLOW`), length 0 with (0, `OK`), nothing but the result
registers touched; otherwise the least number of full-capacity fragments is counted and TXU waits for the cursor's descriptor (R161,
R172, R175). -/
def Obligations.CheckCountsFragments : Prop :=
  ∀ s : State, s.par.wf = true → s.txu.state = .check →
    (s.par.nTx * s.par.capTx < s.txu.len.toNat →
      turnStep .txu s = .next { s with txResult := 0xFFFFFFFF#32, txCode := .fragOverflow,
                                       txu := { s.txu with state := .idle } })
    ∧ (s.txu.len = 0#32 →
      turnStep .txu s = .next { s with txResult := 0#32, txCode := .ok, txu := { s.txu with state := .idle } })
    ∧ (s.txu.len ≠ 0#32 → s.txu.len.toNat ≤ s.par.nTx * s.par.capTx →
      ∃ cnt, turnStep .txu s = .next { s with txu := { s.txu with
          cnt := cnt, i := 0, rem := s.txu.len, total := 0#32, first := s.txCur, state := .waitOwn } }
        ∧ s.txu.len.toNat ≤ cnt * s.par.capTx ∧ ∀ q, s.txu.len.toNat ≤ q * s.par.capTx → cnt ≤ q)

/-- `T_WAIT_OWN`: while the cursor's descriptor is hardware-owned nothing changes; once it is not, TXU goes on (R162). A cursor that
is not a multiple of 4 is an access not admitted: TXU stays, unchanged (R64). -/
def Obligations.TransmitWaitsForOwnership : Prop :=
  ∀ s : State, s.txu.state = .waitOwn →
    (s.txCur.toNat % 4 ≠ 0 → turnStep .txu s = .next s)
    ∧ (s.admitsWord s.txCur = true → (s.mem.wordAt s.txCur.toNat).getLsbD 31 = true → turnStep .txu s = .next s)
    ∧ (s.admitsWord s.txCur = true → (s.mem.wordAt s.txCur.toNat).getLsbD 31 = false →
        turnStep .txu s = .next { s with txu := { s.txu with state := .clear } })

/-- `T_CLEAR`: the status field of the cursor's descriptor is cleared, `OWN` is kept, no other byte changes (R163). -/
def Obligations.ClearKeepsOnlyOwn : Prop :=
  ∀ s : State, s.mem.wf = true → s.txu.state = .clear → s.admitsWord s.txCur = true →
    ∃ t, turnStep .txu s = .next t
      ∧ t = { s with mem := t.mem, txu := { s.txu with state := .copyStart } }
      ∧ t.mem.wordAt s.txCur.toNat = s.mem.wordAt s.txCur.toNat &&& 0x80000000#32
      ∧ SameOutside s.mem t.mem s.txCur.toNat 4

/-- `T_COPY_START`, engine free and bytes remaining: the engine is given the payload's next address, the descriptor's own buffer address and
the lesser of the bytes remaining and the capacity, and is busy; TXU goes to `T_ACQUIRE` (R164, R224). The engine is told beside these where
the whole payload lies, `T.total` bytes below its next address and `T.len` long: the model's own fields, by which COPY's step knows the range
of R76 (log entry 16). With the engine busy or nothing left the start has no defined meaning and the machine stops with the fault of that name
(U10, log entry 12). -/
def Obligations.CopyStartProgramsTheEngine : Prop :=
  ∀ s : State, s.par.wf = true → s.txu.state = .copyStart → s.admitsWord (s.txCur + 8#32) = true →
    ((s.copy.busy = true ∨ s.txu.rem = 0#32) → turnStep .txu s = .fault .copyStartUndefined)
    ∧ (s.copy.busy = false → s.txu.rem ≠ 0#32 →
    ∃ frag, 1 ≤ frag ∧ frag ≤ s.par.capTx ∧ frag ≤ s.txu.rem.toNat ∧ (frag = s.par.capTx ∨ frag = s.txu.rem.toNat)
      ∧ turnStep .txu s = .next { s with
          txu := { s.txu with frag := frag, state := .acquire },
          copy := { s.copy with busy := true, src := s.txu.src, dst := s.mem.wordAt (s.txCur + 8#32).toNat, len := frag,
                                payload := s.txu.src - s.txu.total, payloadLen := s.txu.len },
          events := s.events ++ [.copyStart s.txu.src (s.mem.wordAt (s.txCur + 8#32).toNat) frag] })

/-- `T_ACQUIRE`: while the synchronizer is locked nothing changes; unlocked, it is locked again, `SyncAcquire` is recorded and TXU goes to
`T_RECORD` (R165, R221). -/
def Obligations.AcquireConsumesOneCompletion : Prop :=
  ∀ s : State, s.txu.state = .acquire →
    (s.locked = true → turnStep .txu s = .next s)
    ∧ (s.locked = false →
        turnStep .txu s = .next { s with locked := true, events := s.events ++ [.syncAcquire],
                                         txu := { s.txu with state := .record } })

/-- `T_RECORD`: `BL` of the cursor's descriptor is the fragment's length, `IOC` is 0, the static and reserved bits are kept; source,
remaining, total and count advance; the cursor follows the chain; no other byte changes (R166). -/
def Obligations.RecordAdvancesTheCursor : Prop :=
  ∀ s : State, s.mem.wf = true → s.txu.state = .record → s.txu.frag ≤ 65535 →
    s.admitsWord (s.txCur + 4#32) = true → s.admitsWord (s.txCur + 12#32) = true →
    ∃ t, turnStep .txu s = .next t
      ∧ t = { s with
          mem := t.mem, txCur := s.mem.wordAt (s.txCur + 12#32).toNat,
          txu := { s.txu with
            last := s.txCur, src := s.txu.src + BitVec.ofNat 32 s.txu.frag, rem := s.txu.rem - BitVec.ofNat 32 s.txu.frag,
            total := s.txu.total + BitVec.ofNat 32 s.txu.frag, i := s.txu.i + 1,
            state := if s.txu.rem = BitVec.ofNat 32 s.txu.frag then .flagFirst else .waitOwn } }
      ∧ (∀ b, b < 16 → (t.mem.wordAt (s.txCur + 4#32).toNat).getLsbD b = s.txu.frag.testBit b)
      ∧ (∀ b, 16 ≤ b → b < 31 →
          (t.mem.wordAt (s.txCur + 4#32).toNat).getLsbD b = (s.mem.wordAt (s.txCur + 4#32).toNat).getLsbD b)
      ∧ (t.mem.wordAt (s.txCur + 4#32).toNat).getLsbD 31 = false
      ∧ SameOutside s.mem t.mem (s.txCur + 4#32).toNat 4

/-- `T_FLAG_FIRST`: `FS` of the frame's first descriptor is set, its other bits and every other byte are kept. `T_FLAG_LAST`: `LS` and `IOC`
of the frame's last descriptor are set, their words' other bits and every byte outside the two words are kept, and granting starts at the
first descriptor (R167, R168). -/
def Obligations.FlagsMarkFirstAndLastSegment : Prop :=
  ∀ s : State, s.mem.wf = true →
    (s.txu.state = .flagFirst → s.admitsWord s.txu.first = true →
      ∃ t, turnStep .txu s = .next t
        ∧ t = { s with mem := t.mem, txu := { s.txu with state := .flagLast } }
        ∧ t.mem.wordAt s.txu.first.toNat = s.mem.wordAt s.txu.first.toNat ||| 0x10000000#32
        ∧ SameOutside s.mem t.mem s.txu.first.toNat 4)
    ∧ (s.txu.state = .flagLast → s.admitsWord s.txu.last = true → s.admitsWord (s.txu.last + 4#32) = true →
      ∃ t, turnStep .txu s = .next t
        ∧ t = { s with mem := t.mem, txu := { s.txu with g := s.txu.first, j := 0, state := .grant } }
        ∧ t.mem.wordAt s.txu.last.toNat = s.mem.wordAt s.txu.last.toNat ||| 0x20000000#32
        ∧ t.mem.wordAt (s.txu.last + 4#32).toNat = s.mem.wordAt (s.txu.last + 4#32).toNat ||| 0x80000000#32
        ∧ ∀ x, (x < s.txu.last.toNat ∨ s.txu.last.toNat + 4 ≤ x) →
            (x < (s.txu.last + 4#32).toNat ∨ (s.txu.last + 4#32).toNat + 4 ≤ x) → t.mem.read x = s.mem.read x)

/-- `T_GRANT`: while fewer than `T.cnt` descriptors are granted, the one at `T.g` becomes hardware-owned, its other bits and every other
byte are kept, and `T.g` follows the chain; after that TXU goes to `T_POLL` (R169). `T_DONE`: the total of the bytes staged is reported with
code `OK`, TXU is idle, nothing else changes (R171). -/
def Obligations.GrantHandsOverOneDescriptor : Prop :=
  ∀ s : State, s.mem.wf = true →
    (s.txu.state = .grant → s.txu.cnt ≤ s.txu.j → turnStep .txu s = .next { s with txu := { s.txu with state := .poll } })
    ∧ (s.txu.state = .grant → s.txu.j < s.txu.cnt → s.admitsWord s.txu.g = true → s.admitsWord (s.txu.g + 12#32) = true →
        ∃ t, turnStep .txu s = .next t
          ∧ t = { s with mem := t.mem,
                         txu := { s.txu with g := s.mem.wordAt (s.txu.g + 12#32).toNat, j := s.txu.j + 1 } }
          ∧ t.mem.wordAt s.txu.g.toNat = s.mem.wordAt s.txu.g.toNat ||| 0x80000000#32
          ∧ SameOutside s.mem t.mem s.txu.g.toNat 4)
    ∧ (s.txu.state = .done → turnStep .txu s = .next { s with
        txResult := s.txu.total, txCode := .ok, txu := { s.txu with state := .idle } })

/-! The receive path (43_receive.md). -/

/-- `RECEIVE` is accepted while RXU is idle: destination, limit and mode are latched, the scan starts at the cursor with nothing
gathered; nothing else changes but `CMD_FAULT` (R190). -/
def Obligations.ReceiveIsAccepted : Prop :=
  ∀ (s : State) (block : Bool), s.busy .rxu = false →
    exec (.receive block) s = .next { s with cmdFault := .noFault, rxu := { s.rxu with
      dst := s.arg0, max := s.arg1, blk := block, p := s.rxCur, k := 0, state := .scan } }

/-- `POLL_RX`, RXU idle and the cursor's descriptor readable, completes with result 1 if that descriptor is software-owned and 0 if
not, code `OK`; no other state changes but `CMD_FAULT` (R200). -/
def Obligations.PollRxReportsOwnership : Prop :=
  ∀ s : State, s.busy .rxu = false → s.admitsWord s.rxCur = true →
    exec .pollRx s = .next { s with
      cmdFault := .noFault, rxCode := .ok, rxResult := if (s.mem.wordAt s.rxCur.toNat).getLsbD 31 then 0#32 else 1#32 }

/-- `R_SCAN` meeting a hardware-owned descriptor: a blocking receive changes nothing and looks again, a non-blocking one ends with
(0, `NODATA`), no memory, cursor or other state touched, however many descriptors it had seen (R191, R196). -/
def Obligations.HardwareOwnedMeansNoData : Prop :=
  ∀ s : State, s.rxu.state = .scan → s.admitsWord s.rxu.p = true → (s.mem.wordAt s.rxu.p.toNat).getLsbD 31 = true →
    (s.rxu.blk = true → turnStep .rxu s = .next s)
    ∧ (s.rxu.blk = false → turnStep .rxu s = .next { s with rxResult := 0#32, rxCode := .noData,
                                                            rxu := { s.rxu with state := .idle } })

/-- `R_SCAN` meeting a software-owned descriptor gathers it: with `LS` the length field is taken and the scan ends; without, when the ring
is exhausted, the result is (-5, `MALFORMED`) and the descriptors are to be returned; otherwise the scan follows the chain. Nothing
but RXU's own registers changes (R191, R199). -/
def Obligations.ScanGathersDescriptors : Prop :=
  ∀ s : State, s.rxu.state = .scan → s.admitsWord s.rxu.p = true → (s.mem.wordAt s.rxu.p.toNat).getLsbD 31 = false →
    ((s.mem.wordAt s.rxu.p.toNat).getLsbD 29 = true →
      ∃ fl : BitVec 14, turnStep .rxu s = .next { s with rxu := { s.rxu with k := s.rxu.k + 1, fl := fl, state := .len } }
        ∧ fl.toNat = (s.mem.wordAt s.rxu.p.toNat).toNat / 16384 % 16384)
    ∧ ((s.mem.wordAt s.rxu.p.toNat).getLsbD 29 = false → s.rxu.k + 1 = s.par.nRx →
        turnStep .rxu s = .next { s with rxu := { s.rxu with
          k := s.rxu.k + 1, res := 0xFFFFFFFB#32, code := .malformed, j := 0, state := .retire } })
    ∧ ((s.mem.wordAt s.rxu.p.toNat).getLsbD 29 = false → s.rxu.k + 1 ≠ s.par.nRx →
        s.admitsWord (s.rxu.p + 12#32) = true →
        turnStep .rxu s = .next { s with rxu := { s.rxu with
          k := s.rxu.k + 1, p := s.mem.wordAt (s.rxu.p + 12#32).toNat } })

/-- `R_LEN`, with `n = FL - 4`: a length field below 4 or over the gathered buffers is (-5, `MALFORMED`); else no destination is (n, `OK`)
with nothing copied; else `n` over the limit is (-2, `RX_OVERFLOW`) with nothing copied; else the copy starts at the cursor. Nothing but
RXU's own registers changes (R192, R197, R198, R199). -/
def Obligations.LengthDecidesTheResult : Prop :=
  ∀ s : State, s.rxu.state = .len →
    let fl := s.rxu.fl.toNat
    let malformed := fl < 4 ∨ s.rxu.k * s.par.capRx < fl
    (malformed → turnStep .rxu s = .next { s with rxu := { s.rxu with
        res := 0xFFFFFFFB#32, code := .malformed, j := 0, state := .retire } })
    ∧ (¬malformed → s.rxu.dst = 0#32 → turnStep .rxu s = .next { s with rxu := { s.rxu with
        n := fl - 4, res := BitVec.ofNat 32 (fl - 4), code := .ok, j := 0, state := .retire } })
    ∧ (¬malformed → s.rxu.dst ≠ 0#32 → s.rxu.max.toNat < fl - 4 → turnStep .rxu s = .next { s with rxu := { s.rxu with
        n := fl - 4, res := 0xFFFFFFFE#32, code := .rxOverflow, j := 0, state := .retire } })
    ∧ (¬malformed → s.rxu.dst ≠ 0#32 → fl - 4 ≤ s.rxu.max.toNat → turnStep .rxu s = .next { s with rxu := { s.rxu with
        n := fl - 4, res := BitVec.ofNat 32 (fl - 4), code := .ok, q := s.rxCur, j := 0, copied := 0, state := .copy } })

/-- `R_COPY` with `c = min(CAP_RX, n - copied)`: the first `c` bytes of the descriptor's buffer land at the destination's next offset in
order, every other byte is kept, and the walk follows the chain; with all descriptors done it goes to `R_RETIRE` (R193). The whole
destination range `[dst, dst+max_len)` is mapped, so are both ranges of the copy, which do not overlap, and the destination keeps off the
descriptor's ring-next word. A destination range that is not wholly mapped is not admitted: no part is copied and RXU stays, unchanged
(R76, U8). -/
def Obligations.CopyMovesFrameBytes : Prop :=
  ∀ s : State, s.mem.wf = true → s.rxu.state = .copy →
    (s.rxu.k ≤ s.rxu.j → turnStep .rxu s = .next { s with rxu := { s.rxu with j := 0, state := .retire } })
    ∧ (s.rxu.j < s.rxu.k → s.par.mappedRange s.rxu.dst.toNat s.rxu.max.toNat = false → turnStep .rxu s = .next s)
    ∧ (let c := min s.par.capRx (s.rxu.n - s.rxu.copied)
       let buf := s.mem.wordAt (s.rxu.q + 8#32).toNat
       let dst := s.rxu.dst + BitVec.ofNat 32 s.rxu.copied
       s.rxu.j < s.rxu.k → s.admitsWord (s.rxu.q + 8#32) = true → s.admitsWord (s.rxu.q + 12#32) = true →
       s.par.mappedRange s.rxu.dst.toNat s.rxu.max.toNat = true →
       s.par.mappedRange dst.toNat c = true → s.par.mappedRange buf.toNat c = true →
       (c = 0 ∨ dst.toNat + c ≤ buf.toNat ∨ buf.toNat + c ≤ dst.toNat) →
       (c = 0 ∨ dst.toNat + c ≤ (s.rxu.q + 12#32).toNat ∨ (s.rxu.q + 12#32).toNat + 4 ≤ dst.toNat) →
       ∃ t, turnStep .rxu s = .next t
         ∧ t = { s with mem := t.mem, rxu := { s.rxu with
             copied := s.rxu.copied + c, q := s.mem.wordAt (s.rxu.q + 12#32).toNat, j := s.rxu.j + 1 } }
         ∧ (∀ i, i < c → t.mem.read (dst.toNat + i) = s.mem.read (buf.toNat + i))
         ∧ SameOutside s.mem t.mem dst.toNat c)

/-- `R_RETIRE`: while fewer than `R.k` descriptors are returned, the one at the cursor becomes hardware-owned, its other bits and every
other byte are kept, and the cursor follows the chain; then `R_DONE`, which reports the settled result and ends the command (R194, R195). -/
def Obligations.RetireReturnsOneDescriptor : Prop :=
  ∀ s : State, s.mem.wf = true →
    (s.rxu.state = .retire → s.rxu.k ≤ s.rxu.j → turnStep .rxu s = .next { s with rxu := { s.rxu with state := .done } })
    ∧ (s.rxu.state = .retire → s.rxu.j < s.rxu.k → s.admitsWord s.rxCur = true → s.admitsWord (s.rxCur + 12#32) = true →
        ∃ t, turnStep .rxu s = .next t
          ∧ t = { s with mem := t.mem, rxCur := s.mem.wordAt (s.rxCur + 12#32).toNat,
                         rxu := { s.rxu with j := s.rxu.j + 1 } }
          ∧ t.mem.wordAt s.rxCur.toNat = s.mem.wordAt s.rxCur.toNat ||| 0x80000000#32
          ∧ SameOutside s.mem t.mem s.rxCur.toNat 4)
    ∧ (s.rxu.state = .done → turnStep .rxu s = .next { s with
        rxResult := s.rxu.res, rxCode := s.rxu.code, rxu := { s.rxu with state := .idle } })

/-! Synchronizer, copy engine, handler (44_sync_irq.md). -/

/-- COPY's step, engine busy, both ranges mapped and apart, and the payload they are of wholly mapped: the destination holds the source's
bytes, every other byte is kept, the engine is idle, the flag of channel `COPY_CH` is set and no other, `CopyDone` is recorded, nothing else
changes; with the engine idle it has no step (R225), nor with a payload that is not wholly mapped: no fragment of such a `SEND` is copied
(R76; how the engine knows the payload is the model's own, log entry 16). -/
def Obligations.CopyStepMovesTheFragment : Prop :=
  ∀ s : State, s.mem.wf = true →
    (s.copy.busy = false → turnStep .copy s = .next s)
    ∧ (s.par.mappedRange s.copy.payload.toNat s.copy.payloadLen.toNat = false → turnStep .copy s = .next s)
    ∧ (s.copy.busy = true → s.par.mappedRange s.copy.payload.toNat s.copy.payloadLen.toNat = true →
        s.par.mappedRange s.copy.dst.toNat s.copy.len = true → s.par.mappedRange s.copy.src.toNat s.copy.len = true →
        (s.copy.dst.toNat + s.copy.len ≤ s.copy.src.toNat ∨ s.copy.src.toNat + s.copy.len ≤ s.copy.dst.toNat) →
        ∃ t, turnStep .copy s = .next t
          ∧ t = { s with mem := t.mem, copy := { s.copy with busy := false, tc := s.copy.tc.set s.par.copyCh true },
                         events := s.events ++ [.copyDone s.copy.src s.copy.dst s.copy.len] }
          ∧ (∀ i, i < s.copy.len → t.mem.read (s.copy.dst.toNat + i) = s.mem.read (s.copy.src.toNat + i))
          ∧ SameOutside s.mem t.mem s.copy.dst.toNat s.copy.len)

/-- The handler, with its interrupt enabled and the flag of channel `COPY_CH` pending: clears that flag and releases the synchronizer,
recording `SyncRelease`, or, if it was already released, sets `SYNC_FAULT` and leaves it released. Nothing else changes: no memory, no
descriptor, no other channel's flag (R222, R226, R227, R229). -/
def Obligations.HandlerClearsTheFlagAndReleases : Prop :=
  ∀ s : State, s.irqEn = true → s.copy.tc.getD s.par.copyCh false = true →
    (s.locked = true → turnStep .irq s = .next { s with
        locked := false, copy := { s.copy with tc := s.copy.tc.set s.par.copyCh false }, events := s.events ++ [.syncRelease] })
    ∧ (s.locked = false → turnStep .irq s = .next { s with
        syncFault := true, copy := { s.copy with tc := s.copy.tc.set s.par.copyCh false } })

/-! The MAC's frame DMA (45_macdma.md). -/

/-- MACDMA's transmit step on a hardware-owned, well-formed descriptor at its position: the buffer's `BL` bytes join the frame (a new one at
`FS`), the descriptor comes back with `OWN = 0` and its `FS`, `LS`, `FL` and reserved bits kept, no other byte changes, the events of the
segment, of the frame at `LS` and of the interrupt at `IOC` are recorded, the position follows the chain (R245). The error bits are a
free value: nothing is said of them. -/
def Obligations.DmaTransmitsOneDescriptor : Prop :=
  ∀ (s : State) (w0 w1 buf next : Word) (bytes : List Byte),
    s.mem.wf = true → s.macEn = true → s.txBaseSet = true → s.dma.txRun = true →
    s.loadWord s.dma.txPtr = some w0 → s.loadWord (s.dma.txPtr + 4#32) = some w1 →
    s.loadWord (s.dma.txPtr + 8#32) = some buf → s.loadWord (s.dma.txPtr + 12#32) = some next →
    s.loadBytes buf (w1.toNat % 65536) = some bytes →
    w0.getLsbD 31 = true → w1.getLsbD 30 = true → 1 ≤ w1.toNat % 65536 → w1.toNat % 65536 ≤ s.par.capTx →
    w0.getLsbD 28 ≠ s.dma.txOpen →
    let acc := if w0.getLsbD 28 then bytes else s.dma.txAcc ++ bytes
    ∃ t, turnStep .dmaTransmit s = .next t
      ∧ t = { s with
          mem := t.mem, draws := s.draws + 1,
          dma := { s.dma with txAcc := acc, txOpen := !w0.getLsbD 29, txPtr := next },
          events := s.events ++ [.txSegment s.dma.txPtr bytes (w0.getLsbD 28) (w0.getLsbD 29)]
            ++ (if w0.getLsbD 29 then [.txFrame acc (w1.getLsbD 29)] else [])
            ++ (if w1.getLsbD 31 then [.macIrq s.dma.txPtr] else []) }
      ∧ (t.mem.wordAt s.dma.txPtr.toNat).getLsbD 31 = false
      ∧ (∀ b, 14 ≤ b → b < 31 → (t.mem.wordAt s.dma.txPtr.toNat).getLsbD b = w0.getLsbD b)
      ∧ SameOutside s.mem t.mem s.dma.txPtr.toNat 4

/-- MACDMA meeting a software-owned transmit descriptor suspends and does not transmit; a hardware-owned one does not suspend it; once
suspended it has no transmit step (R245, R246). Until `TX_BASE` is written it has neither step, whatever memory holds (R242). -/
def Obligations.DmaSuspendsOnSoftwareOwned : Prop :=
  (∀ (s : State) (w0 : Word), s.loadWord s.dma.txPtr = some w0 → s.macEn = true → s.txBaseSet = true →
    (s.dma.txRun = true → w0.getLsbD 31 = false →
        turnStep .dmaSuspend s = .next { s with dma := { s.dma with txRun := false } } ∧ turnStep .dmaTransmit s = .next s)
    ∧ (s.dma.txRun = true → w0.getLsbD 31 = true → turnStep .dmaSuspend s = .next s)
    ∧ (s.dma.txRun = false → turnStep .dmaTransmit s = .next s ∧ turnStep .dmaSuspend s = .next s))
  ∧ ∀ s : State, s.txBaseSet = false → turnStep .dmaTransmit s = .next s ∧ turnStep .dmaSuspend s = .next s

/-- MACDMA's fill step on a hardware-owned, chained descriptor at its position, a frame pending: as many bytes as the descriptor offers are
written to its buffer, it comes back with `OWN = 0`, `LS` exactly on the frame's last bytes, `FS` on its first, and at `LS` the length
field of the whole frame; the position follows the chain (R247). The buffer keeps off the descriptor. The
reserved bit 30 comes back 0 whatever it was (R247; R86 reads otherwise where it was 1, log entry 25). The error bits, and the length field
without `LS`, are free values: nothing is said of them. While the descriptor at its position is software-owned, no frame is arriving, or
receive is not enabled, it has no fill step and changes nothing: the frame waits (R242, R247, R249, U4). -/
def Obligations.DmaFillsOneDescriptor : Prop :=
  (∀ (s : State) (w0 w1 buf next : Word),
    s.mem.wf = true → s.macEn = true → s.rxBaseSet = true → s.dma.rxOpen = true →
    s.loadWord s.dma.rxPtr = some w0 → s.loadWord (s.dma.rxPtr + 4#32) = some w1 →
    s.loadWord (s.dma.rxPtr + 8#32) = some buf → s.loadWord (s.dma.rxPtr + 12#32) = some next →
    w0.getLsbD 31 = true → w1.getLsbD 30 = true →
    let c := min s.dma.rxPend.length (w1.toNat % 65536)
    let last := decide (c = s.dma.rxPend.length)
    s.par.mappedRange buf.toNat c = true →
    (∀ x, s.dma.rxPtr.toNat ≤ x → x < s.dma.rxPtr.toNat + 16 → x < buf.toNat ∨ buf.toNat + c ≤ x) →
    s.dma.rxPtr.toNat + 16 ≤ 4294967296 →
    ∃ (t : State) (fl : BitVec 14), turnStep .dmaFill s = .next t
      ∧ t = { s with
          mem := t.mem, draws := s.draws + 2,
          dma := { s.dma with rxPend := s.dma.rxPend.drop c, rxOpen := !last, rxFirst := last, rxPtr := next },
          events := s.events ++ [.rxSegment s.dma.rxPtr (s.dma.rxPend.take c) s.dma.rxFirst last fl] }
      ∧ (∀ i, (h : i < c) → t.mem.read (buf.toNat + i) = s.dma.rxPend[i]'(by omega))
      ∧ (t.mem.wordAt s.dma.rxPtr.toNat).getLsbD 31 = false
      ∧ (t.mem.wordAt s.dma.rxPtr.toNat).getLsbD 30 = false
      ∧ (t.mem.wordAt s.dma.rxPtr.toNat).getLsbD 29 = last ∧ (t.mem.wordAt s.dma.rxPtr.toNat).getLsbD 28 = s.dma.rxFirst
      ∧ (t.mem.wordAt s.dma.rxPtr.toNat).toNat / 16384 % 16384 = fl.toNat
      ∧ (last = true → fl.toNat = s.dma.rxLen % 16384)
      ∧ ∀ x, (x < s.dma.rxPtr.toNat ∨ s.dma.rxPtr.toNat + 4 ≤ x) → (x < buf.toNat ∨ buf.toNat + c ≤ x) →
          t.mem.read x = s.mem.read x)
  ∧ ∀ s : State,
      ((s.mem.wordAt s.dma.rxPtr.toNat).getLsbD 31 = false ∨ s.dma.rxOpen = false ∨ s.macEn = false ∨ s.rxBaseSet = false) →
      turnStep .dmaFill s = .next s

/-- A frame arrives, MACDMA enabled and none arriving: it has 4 to `min(16383, N_RX * CAP_RX)` bytes, none is written yet, and nothing
but MACDMA's receive state and the count of free values changes; while one is arriving no other does (R251). Its bytes and its length
are free values: nothing more is said of them. Until `RX_BASE` is written none arrives (R242). -/
def Obligations.FrameArrivalIsBounded : Prop :=
  ∀ s : State, s.par.wf = true →
    (s.rxBaseSet = false → turnStep .dmaArrive s = .next s)
    ∧ (s.macEn = true → s.rxBaseSet = true →
      (s.dma.rxOpen = true → turnStep .dmaArrive s = .next s)
      ∧ (s.dma.rxOpen = false →
        ∃ (frame : List Byte) (n : Nat), 4 ≤ frame.length ∧ frame.length ≤ 16383
          ∧ frame.length ≤ s.par.nRx * s.par.capRx
          ∧ turnStep .dmaArrive s = .next { s with draws := n, dma := { s.dma with
              rxPend := frame, rxLen := frame.length, rxOpen := true, rxFirst := true } }))

/-! Reset (10_state.md, 70_reset_and_hazards.md). -/

/-- Right after reset every register, sequencer and boundary agent holds what R47 gives it, and no agent but HOST can act. A hardware
reset in any state puts them all into the same table, ends every hang and clears `SYNC_FAULT` and the write-once flags; the shared memory
is kept (R47, R290, R291). That the parameters and what is HOST's (its queue, the value it read last) are kept is the model's reading (log
entries 1, 17). What R47 leaves unspecified is the model's choice (log entries 7, 8) and is not stated. -/
def Obligations.ResetHoldsTheTable : Prop :=
  IsReset State.reset
    ∧ (∀ u : Turn, u ≠ .reset → turnStep u State.reset = .next State.reset)
    ∧ ∀ s : State, ∃ t, turnStep .reset s = .next t ∧ IsReset t ∧ t.mem = s.mem ∧ t.par = s.par ∧ t.hostQ = s.hostQ
        ∧ t.hostRd = s.hostRd ∧ t.copy.tc.length = s.par.nCh

/-! Whole-machine statements. -/

/-- Right after reset the parameters meet the constraints of R5 and R6, the memory has its canonical form, and the discipline of the
synchronizer and the invariants of TXU's and RXU's working registers, which every step keeps, hold. (The ring and binding invariants of
R38 do not: no ring is built yet.) The parameters and the memory are the model's choice (log entries 1, 7). -/
def Obligations.ResetMeetsEveryInvariant : Prop :=
  State.reset.par.wf = true ∧ State.reset.mem.wf = true ∧ SyncInv State.reset ∧ TxuInv State.reset ∧ RxuInv State.reset

/-- Whoever's turn it is, a step keeps the memory's canonical form: addresses strictly rising and inside the 32-bit space, no entry
equal to what an unlisted address reads as. -/
def Obligations.EveryStepKeepsMemoryCanonical : Prop :=
  ∀ s t : State, s.mem.wf = true → step s = .next t → t.mem.wf = true

/-- One transfer in flight: from every state that meets the discipline, whoever's turn it is, the machine does not stop and the next state
meets it again, so `SYNC_FAULT` is never set and `copy_start` is never reached with the engine busy (R229, R230). -/
def Obligations.EveryStepKeepsOneTransferInFlight : Prop :=
  ∀ s : State, s.par.wf = true → SyncInv s → TxuInv s → ∃ t, step s = .next t ∧ SyncInv t

/-- Fragmentation: from every state whose transmit registers are those of a `SEND` in progress, whoever's turn it is, the next state's are
again; in `T_DONE` the total is the length. From `T_WAIT_OWN` on, until a reset, the frame's first descriptor, its length and its count of
fragments stay, and so does where the payload begins (`T.src` less `T.total`), so that fragment `f` is the payload's bytes from `f * CAP_TX` on.
With the transmit ring closed, the slots are those of R173: the cursor is the slot of `T.first` advanced `T.i` times, `T.last` that of the fragment
before, in `T_GRANT` `T.g` is `T.first` advanced `T.j` times, all modulo `N_TX` (R169, R173). -/
def Obligations.EveryStepKeepsFragmentation : Prop :=
  ∀ s t : State, s.par.wf = true → TxuInv s → step s = .next t →
    TxuInv t ∧ (t.txu.state = .done → t.txu.total = t.txu.len ∧ t.txu.i = t.txu.cnt)
    ∧ (s.nextTurn ≠ .reset →
      (s.txu.state ≠ .idle → s.txu.state ≠ .check →
        t.txu.first = s.txu.first ∧ t.txu.len = s.txu.len ∧ t.txu.cnt = s.txu.cnt
          ∧ t.txu.src - t.txu.total = s.txu.src - s.txu.total)
      ∧ (RingClosed s.mem s.par.txdBase s.par.nTx → s.txWalk → t.txWalk))

/-- Reassembly: from every state whose receive registers are those of a `RECEIVE` in progress, whoever's turn it is, the next state's are
again: at most `N_RX` descriptors are gathered, and no more than `n` bytes are ever copied, `n` when the copying ends (R191, R193). -/
def Obligations.EveryStepKeepsReassembly : Prop :=
  ∀ s t : State, s.par.wf = true → RxuInv s → step s = .next t →
    RxuInv t ∧ (s.rxu.state = .copy → t.rxu.state = .retire → s.rxu.copied = s.rxu.n)

/-- No step writes the parameters and the configuration, a reset included; and only a reset clears `SYNC_FAULT`, clears a write-once flag
or changes a base register once written, or takes an event out of the history (R7, R26, R46, R276, R290). -/
def Obligations.OnlyResetForgets : Prop :=
  ∀ s t : State, step s = .next t →
    t.par = s.par
    ∧ (s.nextTurn ≠ .reset →
      (s.syncFault = true → t.syncFault = true)
      ∧ (s.txBaseSet = true → t.txBaseSet = true ∧ t.txBase = s.txBase)
      ∧ (s.rxBaseSet = true → t.rxBaseSet = true ∧ t.rxBase = s.rxBase)
      ∧ ∃ l, t.events = s.events ++ l)

/-- Which registers a unit's turn changes. A turn that goes on changes only: of TXU its own registers, `TX_CUR`, COPY and SYNC (R273), its result
and code (R25), the poll signal (R28, R170) and the events these give; of RXU its own registers and `RX_CUR` (R273), its result and code (R25) and
the count of free values (an overlapping copy, log entry 13); of MIU its own registers, `MII_REQ` and `MII_DATA` (R273), its result and code (R25);
of MIIENG `MII_REQ` and `MII_DATA`, the access's event and the count of free values (R141). MIU's and MIIENG's turns change no memory. Where TXU's
and RXU's turns may change memory is SequencersWriteOnlyTheirWords; what a turn reads is not said. -/
def Obligations.UnitsChangeOnlyTheirRegisters : Prop :=
  ∀ s t : State,
    (turnStep .txu s = .next t → t = { s with
      txu := t.txu, txCur := t.txCur, txResult := t.txResult, txCode := t.txCode, locked := t.locked,
      copy := { t.copy with tc := s.copy.tc },
      dma := { s.dma with txRun := t.dma.txRun }, mem := t.mem, events := t.events })
    ∧ (turnStep .rxu s = .next t → t = { s with
      rxu := t.rxu, rxCur := t.rxCur, rxResult := t.rxResult, rxCode := t.rxCode, mem := t.mem, draws := t.draws })
    ∧ (turnStep .miu s = .next t → t = { s with
      miu := t.miu, miiReq := t.miiReq, miiData := t.miiData, miiResult := t.miiResult, miiCode := t.miiCode })
    ∧ (turnStep .miieng s = .next t → t = { s with
      miiReq := t.miiReq, miiData := t.miiData, events := t.events, draws := t.draws })

/-- Where the agents' turns can write memory: TXU only `W0` and `W1` of the descriptors at `TX_CUR`, `T.first`, `T.last`, `T.g`; RXU only
`W0` of the descriptor at `RX_CUR` and the destination's next bytes (R75). No turn of any agent but HOST breaks the rings: from every state in which
both rings are whole, every pointer into them is where it belongs and what TXU and RXU hold is software-owned (the cursor's descriptor from `T_CLEAR`
to `T_RECORD`, the staged ones up to their grant, the gathered ones up to their return), RXU's destination keeping off the descriptors, the next state
is such a state again, with `W2` and `W3` of every descriptor as initialisation left them (R38, R39, R119). In such a state no turn of TXU or RXU
writes any byte of a descriptor whose `OWN` is 1 (R40, R73, R75). HOST may write any memory (U1), and a reset clears the cursors. -/
def Obligations.SequencersWriteOnlyTheirWords : Prop :=
  (∀ (s t : State) (x : Nat),
    (turnStep .txu s = .next t →
      (∀ d, d = s.txCur ∨ d = s.txu.first ∨ d = s.txu.last ∨ d = s.txu.g →
        (x < d.toNat ∨ d.toNat + 4 ≤ x) ∧ (x < (d + 4#32).toNat ∨ (d + 4#32).toNat + 4 ≤ x)) →
      t.mem.read x = s.mem.read x)
    ∧ (turnStep .rxu s = .next t →
      (x < s.rxCur.toNat ∨ s.rxCur.toNat + 4 ≤ x) →
      (x < (s.rxu.dst + BitVec.ofNat 32 s.rxu.copied).toNat
        ∨ (s.rxu.dst + BitVec.ofNat 32 s.rxu.copied).toNat + min s.par.capRx (s.rxu.n - s.rxu.copied) ≤ x) →
      t.mem.read x = s.mem.read x))
  ∧ ∀ (s t : State) (u : Turn), u ≠ .host → u ≠ .reset → s.par.wf = true → s.mem.wf = true → RingsSound s → TxuInv s → RxuInv s →
      s.destinationApart → turnStep u s = .next t →
      RingsSound t
      ∧ ((u = .txu ∨ u = .rxu) → ∀ d, (s.txSlot d ∨ s.rxSlot d) → s.hwOwned d = true →
          ∀ x, d.toNat ≤ x → x < d.toNat + 16 → t.mem.read x = s.mem.read x)

/-- What MACDMA never does: no turn of it touches a cursor, the synchronizer, the copy engine, the MIU registers or the command
registers, or a sequencer; and the memory it writes is `W0` of a descriptor at its position whose `OWN` it reads as 1 and, filling, the bytes
it delivers to that descriptor's buffer: no `W1`, `W2` or `W3`, nothing of a software-owned descriptor or its buffer (R249). -/
def Obligations.DmaKeepsToItsOwn : Prop :=
  (∀ s t : State, (turnStep .dmaTransmit s = .next t ∨ turnStep .dmaSuspend s = .next t
      ∨ turnStep .dmaFill s = .next t ∨ turnStep .dmaArrive s = .next t) →
    t = { s with dma := t.dma, mem := t.mem, events := t.events, draws := t.draws })
  ∧ ∀ s t : State,
    (turnStep .dmaTransmit s = .next t →
      SameOutside s.mem t.mem s.dma.txPtr.toNat 4
      ∧ ((s.mem.wordAt s.dma.txPtr.toNat).getLsbD 31 = false → t.mem = s.mem))
    ∧ ((turnStep .dmaSuspend s = .next t ∨ turnStep .dmaArrive s = .next t) → t.mem = s.mem)
    ∧ (turnStep .dmaFill s = .next t →
      (let buf := (s.mem.wordAt (s.dma.rxPtr + 8#32).toNat).toNat
       let c := min s.dma.rxPend.length ((s.mem.wordAt (s.dma.rxPtr + 4#32).toNat).toNat % 65536)
       ∀ x, (x < s.dma.rxPtr.toNat ∨ s.dma.rxPtr.toNat + 4 ≤ x) → (x < buf ∨ buf + c ≤ x) → t.mem.read x = s.mem.read x)
      ∧ ((s.mem.wordAt s.dma.rxPtr.toNat).getLsbD 31 = false → t.mem = s.mem))

/-- A `SEND` of one fragment, from the command write to the report, each agent in turn: `TX_RESULT` is the length, the descriptor at the old
cursor is hardware-owned with `FS`, `LS`, `IOC` and the length in `BL`, its buffer holds the payload, the cursor has advanced, the
poll signal is given, and exactly one transfer was started, performed, released and acquired; every byte outside that descriptor's `W0` and `W1`
and the payload's length of its buffer is as before (R160 to R176, R231). -/
def Obligations.OneFragmentSendCompletes : Prop :=
  ∀ (s : State) (q : List HostOp) (ts : List Turn) (buf next : Word),
    s.par.wf = true → s.mem.wf = true → SyncInv s → s.irqEn = true → s.busy .txu = false →
    1 ≤ s.arg1.toNat → s.arg1.toNat ≤ s.par.capTx →
    s.txCur.toNat + 16 ≤ 4294967296 →
    s.admitsWord s.txCur = true → s.admitsWord (s.txCur + 4#32) = true →
    s.loadWord (s.txCur + 8#32) = some buf → s.loadWord (s.txCur + 12#32) = some next →
    (s.mem.wordAt s.txCur.toNat).getLsbD 31 = false → (s.mem.wordAt (s.txCur + 4#32).toNat).toNat / 65536 % 32768 = 0x6000 →
    s.par.mappedRange s.arg0.toNat s.arg1.toNat = true → s.par.mappedRange buf.toNat s.arg1.toNat = true →
    (s.arg0.toNat + s.arg1.toNat ≤ buf.toNat ∨ buf.toNat + s.arg1.toNat ≤ s.arg0.toNat) →
    (s.arg0.toNat + s.arg1.toNat ≤ s.txCur.toNat ∨ s.txCur.toNat + 16 ≤ s.arg0.toNat) →
    (buf.toNat + s.arg1.toNat ≤ s.txCur.toNat ∨ s.txCur.toNat + 16 ≤ buf.toNat) →
    ∃ t, Host.Core.run Sys2Proof.core 15 { s with
        hostQ := .regWrite 0x00 4 0x00000003#32 :: q,
        sched := [.host, .txu, .txu, .txu, .txu, .copy, .irq, .txu, .txu, .txu, .txu, .txu, .txu, .txu, .txu] ++ ts } = .next t
      ∧ t.txResult = s.arg1 ∧ t.txCode = .ok ∧ t.txu.state = .idle ∧ t.txCur = next ∧ t.locked = true
      ∧ t.dma.txRun = true ∧ t.sched = ts ∧ t.hostQ = q
      ∧ t.mem.wordAt s.txCur.toNat = 0xB0000000#32
      ∧ t.mem.wordAt (s.txCur + 4#32).toNat = 0xE0000000#32 + s.arg1
      ∧ (∀ i, i < s.arg1.toNat → t.mem.read (buf.toNat + i) = s.mem.read (s.arg0.toNat + i))
      ∧ (∀ x, (x < s.txCur.toNat ∨ s.txCur.toNat + 8 ≤ x) → (x < buf.toNat ∨ buf.toNat + s.arg1.toNat ≤ x) →
          t.mem.read x = s.mem.read x)
      ∧ t.events = s.events ++ [.copyStart s.arg0 buf s.arg1.toNat, .copyDone s.arg0 buf s.arg1.toNat, .syncRelease,
          .syncAcquire, .txPoll]

/-- A `RECEIVE` of a frame that lies in one descriptor, with a destination large enough and mapped up to its limit, from the command write to the report: `RX_RESULT`
is the frame's length less the trailer, the destination holds the frame's bytes and not one more, the descriptor is hardware-owned again
with its other bits kept, the cursor has advanced by one (R202). -/
def Obligations.OneDescriptorReceiveCompletes : Prop :=
  ∀ (s : State) (q : List HostOp) (ts : List Turn) (buf next : Word) (n : Nat) (block : Bool),
    s.par.wf = true → s.mem.wf = true → s.busy .rxu = false →
    s.rxCur.toNat + 16 ≤ 4294967296 →
    s.admitsWord s.rxCur = true → s.loadWord (s.rxCur + 8#32) = some buf → s.loadWord (s.rxCur + 12#32) = some next →
    (s.mem.wordAt s.rxCur.toNat).getLsbD 31 = false → (s.mem.wordAt s.rxCur.toNat).getLsbD 29 = true →
    (s.mem.wordAt s.rxCur.toNat).toNat / 16384 % 16384 = n + 4 → n + 4 ≤ s.par.capRx →
    s.arg0 ≠ 0#32 → n ≤ s.arg1.toNat →
    s.par.mappedRange s.arg0.toNat s.arg1.toNat = true → s.par.mappedRange buf.toNat n = true →
    (s.arg0.toNat + n ≤ buf.toNat ∨ buf.toNat + n ≤ s.arg0.toNat) →
    (s.arg0.toNat + n ≤ s.rxCur.toNat ∨ s.rxCur.toNat + 16 ≤ s.arg0.toNat) →
    ∃ t, Host.Core.run Sys2Proof.core 8 { s with
        hostQ := .regWrite 0x00 4 (if block then 0x00000104#32 else 0x00000004#32) :: q,
        sched := [.host, .rxu, .rxu, .rxu, .rxu, .rxu, .rxu, .rxu] ++ ts } = .next t
      ∧ t.rxResult.toNat = n ∧ t.rxCode = .ok ∧ t.rxu.state = .idle ∧ t.rxCur = next ∧ t.sched = ts ∧ t.hostQ = q
      ∧ t.mem.wordAt s.rxCur.toNat = s.mem.wordAt s.rxCur.toNat ||| 0x80000000#32
      ∧ (∀ i, i < n → t.mem.read (s.arg0.toNat + i) = s.mem.read (buf.toNat + i))
      ∧ ∀ x, (x < s.arg0.toNat ∨ s.arg0.toNat + n ≤ x) → (x < s.rxCur.toNat ∨ s.rxCur.toNat + 4 ≤ x) →
          t.mem.read x = s.mem.read x

/-- `INITIALIZE` as the list of HOST accesses R95 gives, after a reset of a machine with any parameters R5 allows and any memory, HOST having
every turn: the machine is `Ready` (R300, as log entry 26 reads it), the address registers hold the address HOST chose (R296), nothing was transmitted or started. The first
access, which writes the address bytes to memory for `SET_MAC` to read, is not in R95's list: it is the model's choice (log entry 22). -/
def Obligations.InitializeReachesReady : Prop :=
  ∀ (p : Params) (m : Memory) (ptr : Word) (q : List HostOp) (ts : List Turn),
    p.wf = true → m.wf = true → p.mappedRange ptr.toNat 6 = true →
    ∃ t, Host.Core.run Sys2Proof.core 12 { State.resetOf p m with
        hostQ := initializeProgram p ptr ++ q, sched := List.replicate 12 .host ++ ts } = .next t
      ∧ Ready t ∧ macBytes t.macHi t.macLo = chosenMac p ∧ t.par = p ∧ t.events = [] ∧ t.hostQ = q ∧ t.sched = ts
end

