-- ==== Sys2Proof/Laws/Flags.lean ====
section
/-! SUPPORT. The bits of the words the rules build: what each field update sets, clears and keeps (R86, R87, R90, R92). -/

namespace Sys2Proof.Machine
open Sys2Proof

/-- A fact about each bit of a word follows from the 32 facts. -/
theorem forall_bit {P : Nat → Prop} (h : ∀ b : Fin 32, P b.val) {b : Nat} (hb : b < 32) : P b := h ⟨b, hb⟩

theorem getLsbD_setOwn (w : Word) (b : Nat) : (setOwn w).getLsbD b = (w.getLsbD b || decide (b = 31)) := by
  by_cases hb : b < 32
  · have h : (0x80000000#32).getLsbD b = decide (b = 31) :=
      forall_bit (P := fun b => (0x80000000#32).getLsbD b = decide (b = 31)) (by decide) hb
    rw [setOwn, BitVec.getLsbD_or, h]
  · rw [BitVec.getLsbD_of_ge _ _ (by omega), BitVec.getLsbD_of_ge _ _ (by omega), decide_eq_false (by omega)]; rfl

theorem getLsbD_recordLen (w : Word) {frag : Nat} (hf : frag ≤ 65535) (b : Nat) :
    (recordLen w frag).getLsbD b =
      if b < 16 then frag.testBit b else if b = 31 then false else w.getLsbD b := by
  by_cases hb : b < 32
  · have h : (0x7FFF0000#32).getLsbD b = (decide (16 ≤ b) && decide (b ≠ 31)) :=
      forall_bit (P := fun b => (0x7FFF0000#32).getLsbD b = (decide (16 ≤ b) && decide (b ≠ 31))) (by decide) hb
    rw [recordLen, BitVec.getLsbD_or, BitVec.getLsbD_and, h, BitVec.getLsbD_ofNat, decide_eq_true hb, Bool.true_and]
    by_cases h16 : b < 16
    · rw [if_pos h16, decide_eq_false (by omega)]; simp
    · have hz : frag.testBit b = false :=
        Nat.testBit_lt_two_pow (Nat.lt_of_lt_of_le (by omega : frag < 2 ^ 16) (Nat.pow_le_pow_right (by omega) (by omega)))
      rw [if_neg h16, hz, decide_eq_true (by omega : 16 ≤ b)]
      by_cases h31 : b = 31 <;> simp [h31]
  · have hz : frag.testBit b = false :=
      Nat.testBit_lt_two_pow (Nat.lt_of_lt_of_le (by omega : frag < 2 ^ 16) (Nat.pow_le_pow_right (by omega) (by omega)))
    rw [BitVec.getLsbD_of_ge _ _ (by omega), if_neg (by omega), if_neg (by omega), BitVec.getLsbD_of_ge _ _ (by omega)]

theorem getLsbD_retireTx (w : Word) (err : BitVec 14) (b : Nat) :
    (retireTx w err).getLsbD b = if b < 14 then err.getLsbD b else if b = 31 then false else w.getLsbD b := by
  by_cases hb : b < 32
  · have h : (0x7FFFC000#32).getLsbD b = (decide (14 ≤ b) && decide (b ≠ 31)) :=
      forall_bit (P := fun b => (0x7FFFC000#32).getLsbD b = (decide (14 ≤ b) && decide (b ≠ 31))) (by decide) hb
    rw [retireTx, BitVec.getLsbD_or, BitVec.getLsbD_and, h, BitVec.getLsbD_setWidth, decide_eq_true hb, Bool.true_and]
    by_cases h14 : b < 14
    · rw [if_pos h14, decide_eq_false (by omega)]; simp
    · rw [if_neg h14, BitVec.getLsbD_of_ge err _ (by omega), decide_eq_true (by omega : 14 ≤ b)]
      by_cases h31 : b = 31 <;> simp [h31]
  · rw [BitVec.getLsbD_of_ge _ _ (by omega), if_neg (by omega), if_neg (by omega), BitVec.getLsbD_of_ge _ _ (by omega)]

theorem getLsbD_filledW0 (fs last : Bool) (fl err : BitVec 14) (b : Nat) :
    (filledW0 fs last fl err).getLsbD b =
      if b < 14 then err.getLsbD b else if b < 28 then fl.getLsbD (b - 14)
      else if b = 28 then fs else if b = 29 then last else false := by
  by_cases hb : b < 32
  · have h28 : (0x10000000#32).getLsbD b = decide (b = 28) :=
      forall_bit (P := fun b => (0x10000000#32).getLsbD b = decide (b = 28)) (by decide) hb
    have h29 : (0x20000000#32).getLsbD b = decide (b = 29) :=
      forall_bit (P := fun b => (0x20000000#32).getLsbD b = decide (b = 29)) (by decide) hb
    have e28 : (if fs then 0x10000000#32 else 0#32 : Word).getLsbD b = (fs && decide (b = 28)) := by
      cases fs
      · simp
      · rw [if_pos rfl, h28, Bool.true_and]
    have e29 : (if last then 0x20000000#32 else 0#32 : Word).getLsbD b = (last && decide (b = 29)) := by
      cases last
      · simp
      · rw [if_pos rfl, h29, Bool.true_and]
    rw [filledW0, BitVec.getLsbD_or, BitVec.getLsbD_or, BitVec.getLsbD_or, e28, e29, BitVec.getLsbD_shiftLeft,
      BitVec.getLsbD_setWidth, BitVec.getLsbD_setWidth, decide_eq_true hb, decide_eq_true (by omega : b - 14 < 32)]
    by_cases h14 : b < 14
    · rw [if_pos h14, decide_eq_false (by omega : ¬b = 28), decide_eq_false (by omega : ¬b = 29), decide_eq_true h14]; simp
    · rw [if_neg h14, decide_eq_false h14, BitVec.getLsbD_of_ge err _ (by omega)]
      by_cases h28' : b < 28
      · rw [if_pos h28', decide_eq_false (by omega : ¬b = 28), decide_eq_false (by omega : ¬b = 29)]; simp
      · rw [if_neg h28', BitVec.getLsbD_of_ge fl _ (by omega)]
        by_cases ha : b = 28
        · subst ha; simp
        · by_cases hc : b = 29
          · subst hc; simp
          · simp [ha, hc]
  · rw [BitVec.getLsbD_of_ge _ _ (by omega), if_neg (by omega), if_neg (by omega), if_neg (by omega), if_neg (by omega)]

/-- The request word written out (R90, R133): `PA` at bit 11, `RI` at bit 6, `WR` at bit 1, `BUSY` at bit 0. -/
theorem toNat_encodeMii (pa ri : BitVec 5) (wr : Bool) :
    (encodeMii pa ri wr).toNat = pa.toNat * 2048 + ri.toNat * 64 + (if wr then 2 else 0) + 1 := by
  revert pa ri wr; decide

end Sys2Proof.Machine
end

