-- ==== Sys2Proof/Laws/Memory.lean ====
section
/-! SUPPORT. The laws of the memory: a read after a write, everywhere else unchanged, and that every operation keeps the canonical
form. -/

namespace Sys2Proof.Machine

theorem Memory.wfAbove_cons (lo : Option Nat) (a : Nat) (v : Byte) (m : Memory) :
    Memory.wfAbove lo ((a, v) :: m) = true ↔
      (∀ l, lo = some l → l < a) ∧ a < 4294967296 ∧ v ≠ Memory.blank ∧ Memory.wfAbove (some a) m = true := by
  cases lo <;> simp [Memory.wfAbove, and_assoc]

theorem Memory.wfAbove_weaken {lo lo' : Option Nat} {m : Memory}
    (h : Memory.wfAbove lo m = true) (hle : ∀ l', lo' = some l' → ∃ l, lo = some l ∧ l' ≤ l) :
    Memory.wfAbove lo' m = true := by
  cases m with
  | nil => simp [Memory.wfAbove]
  | cons e m =>
    obtain ⟨a, v⟩ := e
    rw [Memory.wfAbove_cons] at h ⊢
    refine ⟨fun l' hl' => ?_, h.2⟩
    obtain ⟨l, hl, hle⟩ := hle l' hl'
    have := h.1 l hl
    omega

theorem Memory.wf_tail {lo : Option Nat} {a : Nat} {v : Byte} {m : Memory}
    (h : Memory.wfAbove lo ((a, v) :: m) = true) : Memory.wfAbove lo m = true := by
  rw [Memory.wfAbove_cons] at h
  exact Memory.wfAbove_weaken h.2.2.2 fun l hl => ⟨a, rfl, Nat.le_of_lt (h.1 l hl)⟩

/-- Below the first listed address everything is blank. -/
theorem Memory.read_below {lo a : Nat} {m : Memory} (h : Memory.wfAbove (some lo) m = true) (ha : a ≤ lo) :
    m.read a = Memory.blank := by
  induction m with
  | nil => rfl
  | cons e m ih =>
    obtain ⟨k, w⟩ := e
    have hk := ((Memory.wfAbove_cons _ _ _ _).1 h).1 lo rfl
    simp only [Memory.read]
    rw [if_neg (by omega)]
    exact ih (Memory.wf_tail h)

/-- A write leaves every other address as it was, whatever the memory's form. -/
theorem Memory.read_write_other (m : Memory) {a b : Nat} (v : Byte) (h : b ≠ a) :
    (m.write a v).read b = m.read b := by
  induction m with
  | nil =>
    simp only [Memory.write]
    split <;> simp [Memory.read, Ne.symm h]
  | cons e m ih =>
    obtain ⟨k, w⟩ := e
    simp only [Memory.write]
    split
    · split <;> simp [Memory.read, Ne.symm h]
    · split
      · rename_i hak
        subst hak
        split <;> simp [Memory.read, Ne.symm h]
      · simp only [Memory.read, ih]

/-- A read after a write to the same address. -/
theorem Memory.read_write_self {m : Memory} {lo : Option Nat} (hm : Memory.wfAbove lo m = true) (a : Nat) (v : Byte) :
    (m.write a v).read a = v := by
  induction m generalizing lo with
  | nil =>
    simp only [Memory.write]
    split <;> simp_all [Memory.read]
  | cons e m ih =>
    obtain ⟨k, w⟩ := e
    have hc := (Memory.wfAbove_cons _ _ _ _).1 hm
    simp only [Memory.write]
    split
    · split
      · rename_i hak hv
        rw [hv]
        simp only [Memory.read]
        rw [if_neg (by omega)]
        exact Memory.read_below hc.2.2.2 (by omega)
      · simp [Memory.read]
    · split
      · rename_i hak
        subst hak
        split
        · rename_i hv
          rw [hv]
          exact Memory.read_below hc.2.2.2 (Nat.le_refl _)
        · simp [Memory.read]
      · rename_i h1 h2
        simp only [Memory.read]
        rw [if_neg (by omega)]
        exact ih hc.2.2.2

theorem Memory.wfAbove_write {m : Memory} {lo : Option Nat} (hm : Memory.wfAbove lo m = true) {a : Nat} (v : Byte)
    (ha : a < 4294967296) (hlo : ∀ l, lo = some l → l < a) : Memory.wfAbove lo (m.write a v) = true := by
  induction m generalizing lo with
  | nil =>
    simp only [Memory.write]
    split
    · simp [Memory.wfAbove]
    · rename_i hv
      exact (Memory.wfAbove_cons _ _ _ _).2 ⟨hlo, ha, hv, by simp [Memory.wfAbove]⟩
  | cons e m ih =>
    obtain ⟨k, w⟩ := e
    have hc := (Memory.wfAbove_cons _ _ _ _).1 hm
    simp only [Memory.write]
    split
    · rename_i hak
      split
      · exact hm
      · rename_i hv
        refine (Memory.wfAbove_cons _ _ _ _).2 ⟨hlo, ha, hv, ?_⟩
        exact (Memory.wfAbove_cons _ _ _ _).2 ⟨by intro l hl; cases hl; exact hak, hc.2⟩
    · split
      · rename_i hak
        split
        · exact Memory.wf_tail hm
        · rename_i hv
          rw [hak]
          exact (Memory.wfAbove_cons _ _ _ _).2 ⟨hc.1, hc.2.1, hv, hc.2.2.2⟩
      · refine (Memory.wfAbove_cons _ _ _ _).2 ⟨hc.1, hc.2.1, hc.2.2.1, ?_⟩
        exact ih hc.2.2.2 (by intro l hl; cases hl; omega)

/-- A write to an address of the address space keeps the canonical form. -/
theorem Memory.wf_write {m : Memory} (hm : m.wf = true) {a : Nat} (v : Byte) (ha : a < 4294967296) :
    (m.write a v).wf = true :=
  Memory.wfAbove_write hm v ha (by simp)

/-- Writing bytes keeps the canonical form. -/
theorem Memory.wf_writeBytes {m : Memory} (hm : m.wf = true) {a : Nat} (bs : List Byte)
    (ha : bs = [] ∨ a + bs.length ≤ 4294967296) : (m.writeBytes a bs).wf = true := by
  induction bs generalizing m a with
  | nil => exact hm
  | cons b bs ih =>
    simp only [List.length_cons, reduceCtorEq, false_or] at ha
    exact ih (Memory.wf_write hm b (by omega)) (.inr (by omega))

/-- Writing bytes leaves every address outside them as it was. -/
theorem Memory.read_writeBytes_outside (m : Memory) {a x : Nat} (bs : List Byte) (h : x < a ∨ a + bs.length ≤ x) :
    (m.writeBytes a bs).read x = m.read x := by
  induction bs generalizing m a with
  | nil => rfl
  | cons b bs ih =>
    simp only [List.length_cons] at h
    rw [Memory.writeBytes, ih _ (by omega), Memory.read_write_other _ _ (by omega)]

/-- Byte `i` of the bytes written is read back at offset `i`. -/
theorem Memory.read_writeBytes_inside {m : Memory} (hm : m.wf = true) {a i : Nat} (bs : List Byte)
    (ha : a + bs.length ≤ 4294967296) (hi : i < bs.length) : (m.writeBytes a bs).read (a + i) = bs[i] := by
  induction bs generalizing m a i with
  | nil => simp at hi
  | cons b bs ih =>
    simp only [List.length_cons] at ha hi
    have hw := Memory.wf_write (a := a) hm b (by omega)
    cases i with
    | zero =>
      rw [Memory.writeBytes, Memory.read_writeBytes_outside _ _ (by omega)]
      exact Memory.read_write_self hm _ _
    | succ i =>
      have h := ih (a := a + 1) (i := i) hw (by omega) (by omega)
      rw [Memory.writeBytes, show a + (i + 1) = a + 1 + i by omega, h]
      rfl

@[simp] theorem Memory.length_readBytes (m : Memory) (a n : Nat) : (m.readBytes a n).length = n := by
  induction n generalizing a with
  | zero => rfl
  | succ n ih => simp [Memory.readBytes, ih]

theorem Memory.getElem_readBytes (m : Memory) (a n i : Nat) (h : i < (m.readBytes a n).length) :
    (m.readBytes a n)[i] = m.read (a + i) := by
  induction n generalizing a i with
  | zero => simp [Memory.readBytes] at h
  | succ n ih =>
    cases i with
    | zero => rfl
    | succ i =>
      have h' : i < (m.readBytes (a + 1) n).length := by simpa [Memory.readBytes] using h
      rw [show a + (i + 1) = a + 1 + i by omega, ← ih _ _ h']
      rfl

@[simp] theorem length_bytesOfWord (v : Word) : (bytesOfWord v).length = 4 := rfl

@[simp] theorem length_freeBytes (d n : Nat) : (freeBytes d n).length = n := by
  induction n generalizing d with
  | zero => rfl
  | succ n ih => simp [freeBytes, ih]

/-- A word is its four bytes put together again (R62). -/
theorem word_of_bytes (v : Word) :
    v.extractLsb' 24 8 ++ v.extractLsb' 16 8 ++ v.extractLsb' 8 8 ++ v.extractLsb' 0 8 = v := by
  apply BitVec.eq_of_getLsbD_eq
  intro i hi
  simp only [BitVec.getLsbD_append, BitVec.getLsbD_extractLsb']
  repeat' split
  all_goals
    have e : ∀ j, j = i → v.getLsbD j = v.getLsbD i := by intro j hj; rw [hj]
    rw [e _ (by omega), decide_eq_true (by omega), Bool.true_and]

/-- The word written at an address is the word read there. -/
theorem Memory.wordAt_write_self {m : Memory} (hm : m.wf = true) {a : Nat} (v : Word) (ha : a + 4 ≤ 4294967296) :
    (m.writeBytes a (bytesOfWord v)).wordAt a = v := by
  have h : ∀ i (hi : i < 4), (m.writeBytes a (bytesOfWord v)).read (a + i) = (bytesOfWord v)[i] := fun i hi =>
    Memory.read_writeBytes_inside hm (bytesOfWord v) (by simpa using ha) (by simpa using hi)
  have h0 := h 0 (by omega)
  rw [Nat.add_zero] at h0
  rw [Memory.wordAt, h0, h 1 (by omega), h 2 (by omega), h 3 (by omega)]
  exact word_of_bytes v

/-- A word is read as before if none of its bytes was written. -/
theorem Memory.wordAt_congr {m m' : Memory} {a : Nat} (h : ∀ i, i < 4 → m'.read (a + i) = m.read (a + i)) :
    m'.wordAt a = m.wordAt a := by
  have h0 := h 0 (by omega)
  rw [Nat.add_zero] at h0
  rw [Memory.wordAt, Memory.wordAt, h0, h 1 (by omega), h 2 (by omega), h 3 (by omega)]

theorem Memory.wordAt_writeBytes_outside (m : Memory) {a b : Nat} (bs : List Byte) (h : b + 4 ≤ a ∨ a + bs.length ≤ b) :
    (m.writeBytes a bs).wordAt b = m.wordAt b :=
  Memory.wordAt_congr fun _ _ => Memory.read_writeBytes_outside m bs (by omega)

end Sys2Proof.Machine
end

