-- ==== Sys2Proof/Laws/State.lean ====
section
/-! SUPPORT. One lemma per field per shared update of State, each true by computation, so that no later proof unfolds a record
update. -/

namespace Sys2Proof.Machine

/-! `withMem`. -/

@[simp] theorem State.withMem_par (s : State) (m : Memory) : (s.withMem m).par = s.par := rfl
@[simp] theorem State.withMem_arg0 (s : State) (m : Memory) : (s.withMem m).arg0 = s.arg0 := rfl
@[simp] theorem State.withMem_arg1 (s : State) (m : Memory) : (s.withMem m).arg1 = s.arg1 := rfl
@[simp] theorem State.withMem_arg2 (s : State) (m : Memory) : (s.withMem m).arg2 = s.arg2 := rfl
@[simp] theorem State.withMem_cmdFault (s : State) (m : Memory) : (s.withMem m).cmdFault = s.cmdFault := rfl
@[simp] theorem State.withMem_macEn (s : State) (m : Memory) : (s.withMem m).macEn = s.macEn := rfl
@[simp] theorem State.withMem_irqEn (s : State) (m : Memory) : (s.withMem m).irqEn = s.irqEn := rfl
@[simp] theorem State.withMem_syncFault (s : State) (m : Memory) : (s.withMem m).syncFault = s.syncFault := rfl
@[simp] theorem State.withMem_txResult (s : State) (m : Memory) : (s.withMem m).txResult = s.txResult := rfl
@[simp] theorem State.withMem_txCode (s : State) (m : Memory) : (s.withMem m).txCode = s.txCode := rfl
@[simp] theorem State.withMem_rxResult (s : State) (m : Memory) : (s.withMem m).rxResult = s.rxResult := rfl
@[simp] theorem State.withMem_rxCode (s : State) (m : Memory) : (s.withMem m).rxCode = s.rxCode := rfl
@[simp] theorem State.withMem_miiResult (s : State) (m : Memory) : (s.withMem m).miiResult = s.miiResult := rfl
@[simp] theorem State.withMem_miiCode (s : State) (m : Memory) : (s.withMem m).miiCode = s.miiCode := rfl
@[simp] theorem State.withMem_txBase (s : State) (m : Memory) : (s.withMem m).txBase = s.txBase := rfl
@[simp] theorem State.withMem_txBaseSet (s : State) (m : Memory) : (s.withMem m).txBaseSet = s.txBaseSet := rfl
@[simp] theorem State.withMem_rxBase (s : State) (m : Memory) : (s.withMem m).rxBase = s.rxBase := rfl
@[simp] theorem State.withMem_rxBaseSet (s : State) (m : Memory) : (s.withMem m).rxBaseSet = s.rxBaseSet := rfl
@[simp] theorem State.withMem_txCur (s : State) (m : Memory) : (s.withMem m).txCur = s.txCur := rfl
@[simp] theorem State.withMem_rxCur (s : State) (m : Memory) : (s.withMem m).rxCur = s.rxCur := rfl
@[simp] theorem State.withMem_locked (s : State) (m : Memory) : (s.withMem m).locked = s.locked := rfl
@[simp] theorem State.withMem_miiReq (s : State) (m : Memory) : (s.withMem m).miiReq = s.miiReq := rfl
@[simp] theorem State.withMem_miiData (s : State) (m : Memory) : (s.withMem m).miiData = s.miiData := rfl
@[simp] theorem State.withMem_macHi (s : State) (m : Memory) : (s.withMem m).macHi = s.macHi := rfl
@[simp] theorem State.withMem_macLo (s : State) (m : Memory) : (s.withMem m).macLo = s.macLo := rfl
@[simp] theorem State.withMem_txu (s : State) (m : Memory) : (s.withMem m).txu = s.txu := rfl
@[simp] theorem State.withMem_rxu (s : State) (m : Memory) : (s.withMem m).rxu = s.rxu := rfl
@[simp] theorem State.withMem_miu (s : State) (m : Memory) : (s.withMem m).miu = s.miu := rfl
@[simp] theorem State.withMem_copy (s : State) (m : Memory) : (s.withMem m).copy = s.copy := rfl
@[simp] theorem State.withMem_dma (s : State) (m : Memory) : (s.withMem m).dma = s.dma := rfl
@[simp] theorem State.withMem_mem (s : State) (m : Memory) : (s.withMem m).mem = m := rfl
@[simp] theorem State.withMem_events (s : State) (m : Memory) : (s.withMem m).events = s.events := rfl
@[simp] theorem State.withMem_hostQ (s : State) (m : Memory) : (s.withMem m).hostQ = s.hostQ := rfl
@[simp] theorem State.withMem_hostRd (s : State) (m : Memory) : (s.withMem m).hostRd = s.hostRd := rfl
@[simp] theorem State.withMem_sched (s : State) (m : Memory) : (s.withMem m).sched = s.sched := rfl
@[simp] theorem State.withMem_draws (s : State) (m : Memory) : (s.withMem m).draws = s.draws := rfl

/-! `spend`. -/

@[simp] theorem State.spend_par (s : State) (n : Nat) : (s.spend n).par = s.par := rfl
@[simp] theorem State.spend_arg0 (s : State) (n : Nat) : (s.spend n).arg0 = s.arg0 := rfl
@[simp] theorem State.spend_arg1 (s : State) (n : Nat) : (s.spend n).arg1 = s.arg1 := rfl
@[simp] theorem State.spend_arg2 (s : State) (n : Nat) : (s.spend n).arg2 = s.arg2 := rfl
@[simp] theorem State.spend_cmdFault (s : State) (n : Nat) : (s.spend n).cmdFault = s.cmdFault := rfl
@[simp] theorem State.spend_macEn (s : State) (n : Nat) : (s.spend n).macEn = s.macEn := rfl
@[simp] theorem State.spend_irqEn (s : State) (n : Nat) : (s.spend n).irqEn = s.irqEn := rfl
@[simp] theorem State.spend_syncFault (s : State) (n : Nat) : (s.spend n).syncFault = s.syncFault := rfl
@[simp] theorem State.spend_txResult (s : State) (n : Nat) : (s.spend n).txResult = s.txResult := rfl
@[simp] theorem State.spend_txCode (s : State) (n : Nat) : (s.spend n).txCode = s.txCode := rfl
@[simp] theorem State.spend_rxResult (s : State) (n : Nat) : (s.spend n).rxResult = s.rxResult := rfl
@[simp] theorem State.spend_rxCode (s : State) (n : Nat) : (s.spend n).rxCode = s.rxCode := rfl
@[simp] theorem State.spend_miiResult (s : State) (n : Nat) : (s.spend n).miiResult = s.miiResult := rfl
@[simp] theorem State.spend_miiCode (s : State) (n : Nat) : (s.spend n).miiCode = s.miiCode := rfl
@[simp] theorem State.spend_txBase (s : State) (n : Nat) : (s.spend n).txBase = s.txBase := rfl
@[simp] theorem State.spend_txBaseSet (s : State) (n : Nat) : (s.spend n).txBaseSet = s.txBaseSet := rfl
@[simp] theorem State.spend_rxBase (s : State) (n : Nat) : (s.spend n).rxBase = s.rxBase := rfl
@[simp] theorem State.spend_rxBaseSet (s : State) (n : Nat) : (s.spend n).rxBaseSet = s.rxBaseSet := rfl
@[simp] theorem State.spend_txCur (s : State) (n : Nat) : (s.spend n).txCur = s.txCur := rfl
@[simp] theorem State.spend_rxCur (s : State) (n : Nat) : (s.spend n).rxCur = s.rxCur := rfl
@[simp] theorem State.spend_locked (s : State) (n : Nat) : (s.spend n).locked = s.locked := rfl
@[simp] theorem State.spend_miiReq (s : State) (n : Nat) : (s.spend n).miiReq = s.miiReq := rfl
@[simp] theorem State.spend_miiData (s : State) (n : Nat) : (s.spend n).miiData = s.miiData := rfl
@[simp] theorem State.spend_macHi (s : State) (n : Nat) : (s.spend n).macHi = s.macHi := rfl
@[simp] theorem State.spend_macLo (s : State) (n : Nat) : (s.spend n).macLo = s.macLo := rfl
@[simp] theorem State.spend_txu (s : State) (n : Nat) : (s.spend n).txu = s.txu := rfl
@[simp] theorem State.spend_rxu (s : State) (n : Nat) : (s.spend n).rxu = s.rxu := rfl
@[simp] theorem State.spend_miu (s : State) (n : Nat) : (s.spend n).miu = s.miu := rfl
@[simp] theorem State.spend_copy (s : State) (n : Nat) : (s.spend n).copy = s.copy := rfl
@[simp] theorem State.spend_dma (s : State) (n : Nat) : (s.spend n).dma = s.dma := rfl
@[simp] theorem State.spend_mem (s : State) (n : Nat) : (s.spend n).mem = s.mem := rfl
@[simp] theorem State.spend_events (s : State) (n : Nat) : (s.spend n).events = s.events := rfl
@[simp] theorem State.spend_hostQ (s : State) (n : Nat) : (s.spend n).hostQ = s.hostQ := rfl
@[simp] theorem State.spend_hostRd (s : State) (n : Nat) : (s.spend n).hostRd = s.hostRd := rfl
@[simp] theorem State.spend_sched (s : State) (n : Nat) : (s.spend n).sched = s.sched := rfl
@[simp] theorem State.spend_draws (s : State) (n : Nat) : (s.spend n).draws = s.draws + n := rfl

/-! `emit`. -/

@[simp] theorem State.emit_par (s : State) (e : Event) : (s.emit e).par = s.par := rfl
@[simp] theorem State.emit_arg0 (s : State) (e : Event) : (s.emit e).arg0 = s.arg0 := rfl
@[simp] theorem State.emit_arg1 (s : State) (e : Event) : (s.emit e).arg1 = s.arg1 := rfl
@[simp] theorem State.emit_arg2 (s : State) (e : Event) : (s.emit e).arg2 = s.arg2 := rfl
@[simp] theorem State.emit_cmdFault (s : State) (e : Event) : (s.emit e).cmdFault = s.cmdFault := rfl
@[simp] theorem State.emit_macEn (s : State) (e : Event) : (s.emit e).macEn = s.macEn := rfl
@[simp] theorem State.emit_irqEn (s : State) (e : Event) : (s.emit e).irqEn = s.irqEn := rfl
@[simp] theorem State.emit_syncFault (s : State) (e : Event) : (s.emit e).syncFault = s.syncFault := rfl
@[simp] theorem State.emit_txResult (s : State) (e : Event) : (s.emit e).txResult = s.txResult := rfl
@[simp] theorem State.emit_txCode (s : State) (e : Event) : (s.emit e).txCode = s.txCode := rfl
@[simp] theorem State.emit_rxResult (s : State) (e : Event) : (s.emit e).rxResult = s.rxResult := rfl
@[simp] theorem State.emit_rxCode (s : State) (e : Event) : (s.emit e).rxCode = s.rxCode := rfl
@[simp] theorem State.emit_miiResult (s : State) (e : Event) : (s.emit e).miiResult = s.miiResult := rfl
@[simp] theorem State.emit_miiCode (s : State) (e : Event) : (s.emit e).miiCode = s.miiCode := rfl
@[simp] theorem State.emit_txBase (s : State) (e : Event) : (s.emit e).txBase = s.txBase := rfl
@[simp] theorem State.emit_txBaseSet (s : State) (e : Event) : (s.emit e).txBaseSet = s.txBaseSet := rfl
@[simp] theorem State.emit_rxBase (s : State) (e : Event) : (s.emit e).rxBase = s.rxBase := rfl
@[simp] theorem State.emit_rxBaseSet (s : State) (e : Event) : (s.emit e).rxBaseSet = s.rxBaseSet := rfl
@[simp] theorem State.emit_txCur (s : State) (e : Event) : (s.emit e).txCur = s.txCur := rfl
@[simp] theorem State.emit_rxCur (s : State) (e : Event) : (s.emit e).rxCur = s.rxCur := rfl
@[simp] theorem State.emit_locked (s : State) (e : Event) : (s.emit e).locked = s.locked := rfl
@[simp] theorem State.emit_miiReq (s : State) (e : Event) : (s.emit e).miiReq = s.miiReq := rfl
@[simp] theorem State.emit_miiData (s : State) (e : Event) : (s.emit e).miiData = s.miiData := rfl
@[simp] theorem State.emit_macHi (s : State) (e : Event) : (s.emit e).macHi = s.macHi := rfl
@[simp] theorem State.emit_macLo (s : State) (e : Event) : (s.emit e).macLo = s.macLo := rfl
@[simp] theorem State.emit_txu (s : State) (e : Event) : (s.emit e).txu = s.txu := rfl
@[simp] theorem State.emit_rxu (s : State) (e : Event) : (s.emit e).rxu = s.rxu := rfl
@[simp] theorem State.emit_miu (s : State) (e : Event) : (s.emit e).miu = s.miu := rfl
@[simp] theorem State.emit_copy (s : State) (e : Event) : (s.emit e).copy = s.copy := rfl
@[simp] theorem State.emit_dma (s : State) (e : Event) : (s.emit e).dma = s.dma := rfl
@[simp] theorem State.emit_mem (s : State) (e : Event) : (s.emit e).mem = s.mem := rfl
@[simp] theorem State.emit_events (s : State) (e : Event) : (s.emit e).events = s.events ++ [e] := rfl
@[simp] theorem State.emit_hostQ (s : State) (e : Event) : (s.emit e).hostQ = s.hostQ := rfl
@[simp] theorem State.emit_hostRd (s : State) (e : Event) : (s.emit e).hostRd = s.hostRd := rfl
@[simp] theorem State.emit_sched (s : State) (e : Event) : (s.emit e).sched = s.sched := rfl
@[simp] theorem State.emit_draws (s : State) (e : Event) : (s.emit e).draws = s.draws := rfl

/-! `refuse`. -/

@[simp] theorem State.refuse_par (s : State) (r : CmdFault) : (s.refuse r).par = s.par := rfl
@[simp] theorem State.refuse_arg0 (s : State) (r : CmdFault) : (s.refuse r).arg0 = s.arg0 := rfl
@[simp] theorem State.refuse_arg1 (s : State) (r : CmdFault) : (s.refuse r).arg1 = s.arg1 := rfl
@[simp] theorem State.refuse_arg2 (s : State) (r : CmdFault) : (s.refuse r).arg2 = s.arg2 := rfl
@[simp] theorem State.refuse_cmdFault (s : State) (r : CmdFault) : (s.refuse r).cmdFault = r := rfl
@[simp] theorem State.refuse_macEn (s : State) (r : CmdFault) : (s.refuse r).macEn = s.macEn := rfl
@[simp] theorem State.refuse_irqEn (s : State) (r : CmdFault) : (s.refuse r).irqEn = s.irqEn := rfl
@[simp] theorem State.refuse_syncFault (s : State) (r : CmdFault) : (s.refuse r).syncFault = s.syncFault := rfl
@[simp] theorem State.refuse_txResult (s : State) (r : CmdFault) : (s.refuse r).txResult = s.txResult := rfl
@[simp] theorem State.refuse_txCode (s : State) (r : CmdFault) : (s.refuse r).txCode = s.txCode := rfl
@[simp] theorem State.refuse_rxResult (s : State) (r : CmdFault) : (s.refuse r).rxResult = s.rxResult := rfl
@[simp] theorem State.refuse_rxCode (s : State) (r : CmdFault) : (s.refuse r).rxCode = s.rxCode := rfl
@[simp] theorem State.refuse_miiResult (s : State) (r : CmdFault) : (s.refuse r).miiResult = s.miiResult := rfl
@[simp] theorem State.refuse_miiCode (s : State) (r : CmdFault) : (s.refuse r).miiCode = s.miiCode := rfl
@[simp] theorem State.refuse_txBase (s : State) (r : CmdFault) : (s.refuse r).txBase = s.txBase := rfl
@[simp] theorem State.refuse_txBaseSet (s : State) (r : CmdFault) : (s.refuse r).txBaseSet = s.txBaseSet := rfl
@[simp] theorem State.refuse_rxBase (s : State) (r : CmdFault) : (s.refuse r).rxBase = s.rxBase := rfl
@[simp] theorem State.refuse_rxBaseSet (s : State) (r : CmdFault) : (s.refuse r).rxBaseSet = s.rxBaseSet := rfl
@[simp] theorem State.refuse_txCur (s : State) (r : CmdFault) : (s.refuse r).txCur = s.txCur := rfl
@[simp] theorem State.refuse_rxCur (s : State) (r : CmdFault) : (s.refuse r).rxCur = s.rxCur := rfl
@[simp] theorem State.refuse_locked (s : State) (r : CmdFault) : (s.refuse r).locked = s.locked := rfl
@[simp] theorem State.refuse_miiReq (s : State) (r : CmdFault) : (s.refuse r).miiReq = s.miiReq := rfl
@[simp] theorem State.refuse_miiData (s : State) (r : CmdFault) : (s.refuse r).miiData = s.miiData := rfl
@[simp] theorem State.refuse_macHi (s : State) (r : CmdFault) : (s.refuse r).macHi = s.macHi := rfl
@[simp] theorem State.refuse_macLo (s : State) (r : CmdFault) : (s.refuse r).macLo = s.macLo := rfl
@[simp] theorem State.refuse_txu (s : State) (r : CmdFault) : (s.refuse r).txu = s.txu := rfl
@[simp] theorem State.refuse_rxu (s : State) (r : CmdFault) : (s.refuse r).rxu = s.rxu := rfl
@[simp] theorem State.refuse_miu (s : State) (r : CmdFault) : (s.refuse r).miu = s.miu := rfl
@[simp] theorem State.refuse_copy (s : State) (r : CmdFault) : (s.refuse r).copy = s.copy := rfl
@[simp] theorem State.refuse_dma (s : State) (r : CmdFault) : (s.refuse r).dma = s.dma := rfl
@[simp] theorem State.refuse_mem (s : State) (r : CmdFault) : (s.refuse r).mem = s.mem := rfl
@[simp] theorem State.refuse_events (s : State) (r : CmdFault) : (s.refuse r).events = s.events := rfl
@[simp] theorem State.refuse_hostQ (s : State) (r : CmdFault) : (s.refuse r).hostQ = s.hostQ := rfl
@[simp] theorem State.refuse_hostRd (s : State) (r : CmdFault) : (s.refuse r).hostRd = s.hostRd := rfl
@[simp] theorem State.refuse_sched (s : State) (r : CmdFault) : (s.refuse r).sched = s.sched := rfl
@[simp] theorem State.refuse_draws (s : State) (r : CmdFault) : (s.refuse r).draws = s.draws := rfl

/-! `accept`. -/

@[simp] theorem State.accept_par (s : State) : (s.accept).par = s.par := rfl
@[simp] theorem State.accept_arg0 (s : State) : (s.accept).arg0 = s.arg0 := rfl
@[simp] theorem State.accept_arg1 (s : State) : (s.accept).arg1 = s.arg1 := rfl
@[simp] theorem State.accept_arg2 (s : State) : (s.accept).arg2 = s.arg2 := rfl
@[simp] theorem State.accept_cmdFault (s : State) : (s.accept).cmdFault = .noFault := rfl
@[simp] theorem State.accept_macEn (s : State) : (s.accept).macEn = s.macEn := rfl
@[simp] theorem State.accept_irqEn (s : State) : (s.accept).irqEn = s.irqEn := rfl
@[simp] theorem State.accept_syncFault (s : State) : (s.accept).syncFault = s.syncFault := rfl
@[simp] theorem State.accept_txResult (s : State) : (s.accept).txResult = s.txResult := rfl
@[simp] theorem State.accept_txCode (s : State) : (s.accept).txCode = s.txCode := rfl
@[simp] theorem State.accept_rxResult (s : State) : (s.accept).rxResult = s.rxResult := rfl
@[simp] theorem State.accept_rxCode (s : State) : (s.accept).rxCode = s.rxCode := rfl
@[simp] theorem State.accept_miiResult (s : State) : (s.accept).miiResult = s.miiResult := rfl
@[simp] theorem State.accept_miiCode (s : State) : (s.accept).miiCode = s.miiCode := rfl
@[simp] theorem State.accept_txBase (s : State) : (s.accept).txBase = s.txBase := rfl
@[simp] theorem State.accept_txBaseSet (s : State) : (s.accept).txBaseSet = s.txBaseSet := rfl
@[simp] theorem State.accept_rxBase (s : State) : (s.accept).rxBase = s.rxBase := rfl
@[simp] theorem State.accept_rxBaseSet (s : State) : (s.accept).rxBaseSet = s.rxBaseSet := rfl
@[simp] theorem State.accept_txCur (s : State) : (s.accept).txCur = s.txCur := rfl
@[simp] theorem State.accept_rxCur (s : State) : (s.accept).rxCur = s.rxCur := rfl
@[simp] theorem State.accept_locked (s : State) : (s.accept).locked = s.locked := rfl
@[simp] theorem State.accept_miiReq (s : State) : (s.accept).miiReq = s.miiReq := rfl
@[simp] theorem State.accept_miiData (s : State) : (s.accept).miiData = s.miiData := rfl
@[simp] theorem State.accept_macHi (s : State) : (s.accept).macHi = s.macHi := rfl
@[simp] theorem State.accept_macLo (s : State) : (s.accept).macLo = s.macLo := rfl
@[simp] theorem State.accept_txu (s : State) : (s.accept).txu = s.txu := rfl
@[simp] theorem State.accept_rxu (s : State) : (s.accept).rxu = s.rxu := rfl
@[simp] theorem State.accept_miu (s : State) : (s.accept).miu = s.miu := rfl
@[simp] theorem State.accept_copy (s : State) : (s.accept).copy = s.copy := rfl
@[simp] theorem State.accept_dma (s : State) : (s.accept).dma = s.dma := rfl
@[simp] theorem State.accept_mem (s : State) : (s.accept).mem = s.mem := rfl
@[simp] theorem State.accept_events (s : State) : (s.accept).events = s.events := rfl
@[simp] theorem State.accept_hostQ (s : State) : (s.accept).hostQ = s.hostQ := rfl
@[simp] theorem State.accept_hostRd (s : State) : (s.accept).hostRd = s.hostRd := rfl
@[simp] theorem State.accept_sched (s : State) : (s.accept).sched = s.sched := rfl
@[simp] theorem State.accept_draws (s : State) : (s.accept).draws = s.draws := rfl

/-! `finishTx`. -/

@[simp] theorem State.finishTx_par (s : State) (w : Word) (c : Code) : (s.finishTx w c).par = s.par := rfl
@[simp] theorem State.finishTx_arg0 (s : State) (w : Word) (c : Code) : (s.finishTx w c).arg0 = s.arg0 := rfl
@[simp] theorem State.finishTx_arg1 (s : State) (w : Word) (c : Code) : (s.finishTx w c).arg1 = s.arg1 := rfl
@[simp] theorem State.finishTx_arg2 (s : State) (w : Word) (c : Code) : (s.finishTx w c).arg2 = s.arg2 := rfl
@[simp] theorem State.finishTx_cmdFault (s : State) (w : Word) (c : Code) : (s.finishTx w c).cmdFault = s.cmdFault := rfl
@[simp] theorem State.finishTx_macEn (s : State) (w : Word) (c : Code) : (s.finishTx w c).macEn = s.macEn := rfl
@[simp] theorem State.finishTx_irqEn (s : State) (w : Word) (c : Code) : (s.finishTx w c).irqEn = s.irqEn := rfl
@[simp] theorem State.finishTx_syncFault (s : State) (w : Word) (c : Code) : (s.finishTx w c).syncFault = s.syncFault := rfl
@[simp] theorem State.finishTx_txResult (s : State) (w : Word) (c : Code) : (s.finishTx w c).txResult = w := rfl
@[simp] theorem State.finishTx_txCode (s : State) (w : Word) (c : Code) : (s.finishTx w c).txCode = c := rfl
@[simp] theorem State.finishTx_rxResult (s : State) (w : Word) (c : Code) : (s.finishTx w c).rxResult = s.rxResult := rfl
@[simp] theorem State.finishTx_rxCode (s : State) (w : Word) (c : Code) : (s.finishTx w c).rxCode = s.rxCode := rfl
@[simp] theorem State.finishTx_miiResult (s : State) (w : Word) (c : Code) : (s.finishTx w c).miiResult = s.miiResult := rfl
@[simp] theorem State.finishTx_miiCode (s : State) (w : Word) (c : Code) : (s.finishTx w c).miiCode = s.miiCode := rfl
@[simp] theorem State.finishTx_txBase (s : State) (w : Word) (c : Code) : (s.finishTx w c).txBase = s.txBase := rfl
@[simp] theorem State.finishTx_txBaseSet (s : State) (w : Word) (c : Code) : (s.finishTx w c).txBaseSet = s.txBaseSet := rfl
@[simp] theorem State.finishTx_rxBase (s : State) (w : Word) (c : Code) : (s.finishTx w c).rxBase = s.rxBase := rfl
@[simp] theorem State.finishTx_rxBaseSet (s : State) (w : Word) (c : Code) : (s.finishTx w c).rxBaseSet = s.rxBaseSet := rfl
@[simp] theorem State.finishTx_txCur (s : State) (w : Word) (c : Code) : (s.finishTx w c).txCur = s.txCur := rfl
@[simp] theorem State.finishTx_rxCur (s : State) (w : Word) (c : Code) : (s.finishTx w c).rxCur = s.rxCur := rfl
@[simp] theorem State.finishTx_locked (s : State) (w : Word) (c : Code) : (s.finishTx w c).locked = s.locked := rfl
@[simp] theorem State.finishTx_miiReq (s : State) (w : Word) (c : Code) : (s.finishTx w c).miiReq = s.miiReq := rfl
@[simp] theorem State.finishTx_miiData (s : State) (w : Word) (c : Code) : (s.finishTx w c).miiData = s.miiData := rfl
@[simp] theorem State.finishTx_macHi (s : State) (w : Word) (c : Code) : (s.finishTx w c).macHi = s.macHi := rfl
@[simp] theorem State.finishTx_macLo (s : State) (w : Word) (c : Code) : (s.finishTx w c).macLo = s.macLo := rfl
@[simp] theorem State.finishTx_txu (s : State) (w : Word) (c : Code) : (s.finishTx w c).txu = { s.txu with state := .idle } := rfl
@[simp] theorem State.finishTx_rxu (s : State) (w : Word) (c : Code) : (s.finishTx w c).rxu = s.rxu := rfl
@[simp] theorem State.finishTx_miu (s : State) (w : Word) (c : Code) : (s.finishTx w c).miu = s.miu := rfl
@[simp] theorem State.finishTx_copy (s : State) (w : Word) (c : Code) : (s.finishTx w c).copy = s.copy := rfl
@[simp] theorem State.finishTx_dma (s : State) (w : Word) (c : Code) : (s.finishTx w c).dma = s.dma := rfl
@[simp] theorem State.finishTx_mem (s : State) (w : Word) (c : Code) : (s.finishTx w c).mem = s.mem := rfl
@[simp] theorem State.finishTx_events (s : State) (w : Word) (c : Code) : (s.finishTx w c).events = s.events := rfl
@[simp] theorem State.finishTx_hostQ (s : State) (w : Word) (c : Code) : (s.finishTx w c).hostQ = s.hostQ := rfl
@[simp] theorem State.finishTx_hostRd (s : State) (w : Word) (c : Code) : (s.finishTx w c).hostRd = s.hostRd := rfl
@[simp] theorem State.finishTx_sched (s : State) (w : Word) (c : Code) : (s.finishTx w c).sched = s.sched := rfl
@[simp] theorem State.finishTx_draws (s : State) (w : Word) (c : Code) : (s.finishTx w c).draws = s.draws := rfl

/-! `finishRx`. -/

@[simp] theorem State.finishRx_par (s : State) (w : Word) (c : Code) : (s.finishRx w c).par = s.par := rfl
@[simp] theorem State.finishRx_arg0 (s : State) (w : Word) (c : Code) : (s.finishRx w c).arg0 = s.arg0 := rfl
@[simp] theorem State.finishRx_arg1 (s : State) (w : Word) (c : Code) : (s.finishRx w c).arg1 = s.arg1 := rfl
@[simp] theorem State.finishRx_arg2 (s : State) (w : Word) (c : Code) : (s.finishRx w c).arg2 = s.arg2 := rfl
@[simp] theorem State.finishRx_cmdFault (s : State) (w : Word) (c : Code) : (s.finishRx w c).cmdFault = s.cmdFault := rfl
@[simp] theorem State.finishRx_macEn (s : State) (w : Word) (c : Code) : (s.finishRx w c).macEn = s.macEn := rfl
@[simp] theorem State.finishRx_irqEn (s : State) (w : Word) (c : Code) : (s.finishRx w c).irqEn = s.irqEn := rfl
@[simp] theorem State.finishRx_syncFault (s : State) (w : Word) (c : Code) : (s.finishRx w c).syncFault = s.syncFault := rfl
@[simp] theorem State.finishRx_txResult (s : State) (w : Word) (c : Code) : (s.finishRx w c).txResult = s.txResult := rfl
@[simp] theorem State.finishRx_txCode (s : State) (w : Word) (c : Code) : (s.finishRx w c).txCode = s.txCode := rfl
@[simp] theorem State.finishRx_rxResult (s : State) (w : Word) (c : Code) : (s.finishRx w c).rxResult = w := rfl
@[simp] theorem State.finishRx_rxCode (s : State) (w : Word) (c : Code) : (s.finishRx w c).rxCode = c := rfl
@[simp] theorem State.finishRx_miiResult (s : State) (w : Word) (c : Code) : (s.finishRx w c).miiResult = s.miiResult := rfl
@[simp] theorem State.finishRx_miiCode (s : State) (w : Word) (c : Code) : (s.finishRx w c).miiCode = s.miiCode := rfl
@[simp] theorem State.finishRx_txBase (s : State) (w : Word) (c : Code) : (s.finishRx w c).txBase = s.txBase := rfl
@[simp] theorem State.finishRx_txBaseSet (s : State) (w : Word) (c : Code) : (s.finishRx w c).txBaseSet = s.txBaseSet := rfl
@[simp] theorem State.finishRx_rxBase (s : State) (w : Word) (c : Code) : (s.finishRx w c).rxBase = s.rxBase := rfl
@[simp] theorem State.finishRx_rxBaseSet (s : State) (w : Word) (c : Code) : (s.finishRx w c).rxBaseSet = s.rxBaseSet := rfl
@[simp] theorem State.finishRx_txCur (s : State) (w : Word) (c : Code) : (s.finishRx w c).txCur = s.txCur := rfl
@[simp] theorem State.finishRx_rxCur (s : State) (w : Word) (c : Code) : (s.finishRx w c).rxCur = s.rxCur := rfl
@[simp] theorem State.finishRx_locked (s : State) (w : Word) (c : Code) : (s.finishRx w c).locked = s.locked := rfl
@[simp] theorem State.finishRx_miiReq (s : State) (w : Word) (c : Code) : (s.finishRx w c).miiReq = s.miiReq := rfl
@[simp] theorem State.finishRx_miiData (s : State) (w : Word) (c : Code) : (s.finishRx w c).miiData = s.miiData := rfl
@[simp] theorem State.finishRx_macHi (s : State) (w : Word) (c : Code) : (s.finishRx w c).macHi = s.macHi := rfl
@[simp] theorem State.finishRx_macLo (s : State) (w : Word) (c : Code) : (s.finishRx w c).macLo = s.macLo := rfl
@[simp] theorem State.finishRx_txu (s : State) (w : Word) (c : Code) : (s.finishRx w c).txu = s.txu := rfl
@[simp] theorem State.finishRx_rxu (s : State) (w : Word) (c : Code) : (s.finishRx w c).rxu = { s.rxu with state := .idle } := rfl
@[simp] theorem State.finishRx_miu (s : State) (w : Word) (c : Code) : (s.finishRx w c).miu = s.miu := rfl
@[simp] theorem State.finishRx_copy (s : State) (w : Word) (c : Code) : (s.finishRx w c).copy = s.copy := rfl
@[simp] theorem State.finishRx_dma (s : State) (w : Word) (c : Code) : (s.finishRx w c).dma = s.dma := rfl
@[simp] theorem State.finishRx_mem (s : State) (w : Word) (c : Code) : (s.finishRx w c).mem = s.mem := rfl
@[simp] theorem State.finishRx_events (s : State) (w : Word) (c : Code) : (s.finishRx w c).events = s.events := rfl
@[simp] theorem State.finishRx_hostQ (s : State) (w : Word) (c : Code) : (s.finishRx w c).hostQ = s.hostQ := rfl
@[simp] theorem State.finishRx_hostRd (s : State) (w : Word) (c : Code) : (s.finishRx w c).hostRd = s.hostRd := rfl
@[simp] theorem State.finishRx_sched (s : State) (w : Word) (c : Code) : (s.finishRx w c).sched = s.sched := rfl
@[simp] theorem State.finishRx_draws (s : State) (w : Word) (c : Code) : (s.finishRx w c).draws = s.draws := rfl

/-! `finishMii`. -/

@[simp] theorem State.finishMii_par (s : State) (w : Word) (c : Code) : (s.finishMii w c).par = s.par := rfl
@[simp] theorem State.finishMii_arg0 (s : State) (w : Word) (c : Code) : (s.finishMii w c).arg0 = s.arg0 := rfl
@[simp] theorem State.finishMii_arg1 (s : State) (w : Word) (c : Code) : (s.finishMii w c).arg1 = s.arg1 := rfl
@[simp] theorem State.finishMii_arg2 (s : State) (w : Word) (c : Code) : (s.finishMii w c).arg2 = s.arg2 := rfl
@[simp] theorem State.finishMii_cmdFault (s : State) (w : Word) (c : Code) : (s.finishMii w c).cmdFault = s.cmdFault := rfl
@[simp] theorem State.finishMii_macEn (s : State) (w : Word) (c : Code) : (s.finishMii w c).macEn = s.macEn := rfl
@[simp] theorem State.finishMii_irqEn (s : State) (w : Word) (c : Code) : (s.finishMii w c).irqEn = s.irqEn := rfl
@[simp] theorem State.finishMii_syncFault (s : State) (w : Word) (c : Code) : (s.finishMii w c).syncFault = s.syncFault := rfl
@[simp] theorem State.finishMii_txResult (s : State) (w : Word) (c : Code) : (s.finishMii w c).txResult = s.txResult := rfl
@[simp] theorem State.finishMii_txCode (s : State) (w : Word) (c : Code) : (s.finishMii w c).txCode = s.txCode := rfl
@[simp] theorem State.finishMii_rxResult (s : State) (w : Word) (c : Code) : (s.finishMii w c).rxResult = s.rxResult := rfl
@[simp] theorem State.finishMii_rxCode (s : State) (w : Word) (c : Code) : (s.finishMii w c).rxCode = s.rxCode := rfl
@[simp] theorem State.finishMii_miiResult (s : State) (w : Word) (c : Code) : (s.finishMii w c).miiResult = w := rfl
@[simp] theorem State.finishMii_miiCode (s : State) (w : Word) (c : Code) : (s.finishMii w c).miiCode = c := rfl
@[simp] theorem State.finishMii_txBase (s : State) (w : Word) (c : Code) : (s.finishMii w c).txBase = s.txBase := rfl
@[simp] theorem State.finishMii_txBaseSet (s : State) (w : Word) (c : Code) : (s.finishMii w c).txBaseSet = s.txBaseSet := rfl
@[simp] theorem State.finishMii_rxBase (s : State) (w : Word) (c : Code) : (s.finishMii w c).rxBase = s.rxBase := rfl
@[simp] theorem State.finishMii_rxBaseSet (s : State) (w : Word) (c : Code) : (s.finishMii w c).rxBaseSet = s.rxBaseSet := rfl
@[simp] theorem State.finishMii_txCur (s : State) (w : Word) (c : Code) : (s.finishMii w c).txCur = s.txCur := rfl
@[simp] theorem State.finishMii_rxCur (s : State) (w : Word) (c : Code) : (s.finishMii w c).rxCur = s.rxCur := rfl
@[simp] theorem State.finishMii_locked (s : State) (w : Word) (c : Code) : (s.finishMii w c).locked = s.locked := rfl
@[simp] theorem State.finishMii_miiReq (s : State) (w : Word) (c : Code) : (s.finishMii w c).miiReq = s.miiReq := rfl
@[simp] theorem State.finishMii_miiData (s : State) (w : Word) (c : Code) : (s.finishMii w c).miiData = s.miiData := rfl
@[simp] theorem State.finishMii_macHi (s : State) (w : Word) (c : Code) : (s.finishMii w c).macHi = s.macHi := rfl
@[simp] theorem State.finishMii_macLo (s : State) (w : Word) (c : Code) : (s.finishMii w c).macLo = s.macLo := rfl
@[simp] theorem State.finishMii_txu (s : State) (w : Word) (c : Code) : (s.finishMii w c).txu = s.txu := rfl
@[simp] theorem State.finishMii_rxu (s : State) (w : Word) (c : Code) : (s.finishMii w c).rxu = s.rxu := rfl
@[simp] theorem State.finishMii_miu (s : State) (w : Word) (c : Code) : (s.finishMii w c).miu = { s.miu with state := .idle } := rfl
@[simp] theorem State.finishMii_copy (s : State) (w : Word) (c : Code) : (s.finishMii w c).copy = s.copy := rfl
@[simp] theorem State.finishMii_dma (s : State) (w : Word) (c : Code) : (s.finishMii w c).dma = s.dma := rfl
@[simp] theorem State.finishMii_mem (s : State) (w : Word) (c : Code) : (s.finishMii w c).mem = s.mem := rfl
@[simp] theorem State.finishMii_events (s : State) (w : Word) (c : Code) : (s.finishMii w c).events = s.events := rfl
@[simp] theorem State.finishMii_hostQ (s : State) (w : Word) (c : Code) : (s.finishMii w c).hostQ = s.hostQ := rfl
@[simp] theorem State.finishMii_hostRd (s : State) (w : Word) (c : Code) : (s.finishMii w c).hostRd = s.hostRd := rfl
@[simp] theorem State.finishMii_sched (s : State) (w : Word) (c : Code) : (s.finishMii w c).sched = s.sched := rfl
@[simp] theorem State.finishMii_draws (s : State) (w : Word) (c : Code) : (s.finishMii w c).draws = s.draws := rfl

end Sys2Proof.Machine
end

