-- ==== Sys2Proof/Laws/Ops.lean ====
section
/-! SUPPORT. For each shared operation one lemma that says everything it can do, which later proofs cite instead of unfolding the
operation. -/

namespace Sys2Proof
open Sys2Proof.Machine

theorem Params.mappedAt_lt {p : Params} {a : Nat} (h : p.mappedAt a = true) : a < 4294967296 := by
  simp only [Params.mappedAt, Bool.and_eq_true, decide_eq_true_eq] at h
  exact h.1

/-- What lies in none of the ranges that end above `b` but in one that ends above `a` makes the former fewer. -/
theorem countP_lt {rs : List (Nat × Nat)} {a b : Nat} {r : Nat × Nat} (hr : r ∈ rs) (hab : a ≤ b) (ha : a < r.1 + r.2)
    (hb : r.1 + r.2 ≤ b) :
    rs.countP (fun q => decide (b < q.1 + q.2)) < rs.countP (fun q => decide (a < q.1 + q.2)) := by
  obtain ⟨l, l', rfl⟩ := List.append_of_mem hr
  have h1 : ∀ m : List (Nat × Nat), m.countP (fun q => decide (b < q.1 + q.2)) ≤ m.countP (fun q => decide (a < q.1 + q.2)) :=
    fun m => List.countP_mono_left fun q _ h => by simp only [decide_eq_true_eq] at h ⊢; omega
  have := h1 l; have := h1 l'
  simp only [List.countP_append, List.countP_cons, decide_eq_true ha, decide_eq_false (by omega : ¬b < r.1 + r.2), if_true,
    Bool.false_eq_true, if_false]
  omega

/-- Covered is covered address by address. -/
theorem coveredTo_iff (rs : List (Nat × Nat)) (e k a : Nat) (hk : rs.countP (fun r => decide (a < r.1 + r.2)) ≤ k) :
    coveredTo rs e k a = true ↔ ∀ x, a ≤ x → x < e → rs.any (fun r => inRange r x) = true := by
  induction k generalizing a with
  | zero =>
    simp only [coveredTo, decide_eq_true_eq]
    refine ⟨fun h x h1 h2 => by omega, fun h => ?_⟩
    by_contra hc
    obtain ⟨r, hr, hx⟩ := List.any_eq_true.1 (h a (Nat.le_refl _) (by omega))
    simp only [inRange, Bool.and_eq_true, decide_eq_true_eq] at hx
    have := countP_lt (b := r.1 + r.2) hr (by omega) hx.2 (Nat.le_refl _)
    omega
  | succ k ih =>
    by_cases he : e ≤ a
    · simp only [coveredTo, decide_eq_true he, Bool.true_or, true_iff]
      intro x h1 h2; omega
    simp only [coveredTo, decide_eq_false he, Bool.false_or]
    cases hf : rs.find? fun r => inRange r a with
    | none =>
      simp only [Bool.false_eq_true, false_iff]
      intro h
      obtain ⟨r, hr, hx⟩ := List.any_eq_true.1 (h a (Nat.le_refl _) (by omega))
      exact List.find?_eq_none.1 hf r hr hx
    | some r =>
      have hr := List.mem_of_find?_eq_some hf
      have hx := List.find?_some hf
      have hx' := hx
      simp only [inRange, Bool.and_eq_true, decide_eq_true_eq] at hx'
      have hc := countP_lt (b := r.1 + r.2) hr (by omega) hx'.2 (Nat.le_refl _)
      simp only
      rw [ih _ (by omega)]
      refine ⟨fun h x h1 h2 => ?_, fun h x h1 h2 => h x (by omega) h2⟩
      by_cases hxr : r.1 + r.2 ≤ x
      · exact h x hxr h2
      · exact List.any_eq_true.2 ⟨r, hr, by simp only [inRange, Bool.and_eq_true, decide_eq_true_eq]; omega⟩

/-- A range is mapped when each of its bytes is (R76). -/
theorem Params.mappedRange_iff (p : Params) (a n : Nat) :
    p.mappedRange a n = true ↔ ∀ i, i < n → p.mappedAt (a + i) = true := by
  by_cases hn : n = 0
  · simp [Params.mappedRange, hn]
  simp only [Params.mappedRange, decide_eq_false hn, Bool.false_or, Bool.and_eq_true, decide_eq_true_eq, Params.mappedAt]
  rw [coveredTo_iff _ _ _ _ List.countP_le_length]
  constructor
  · exact fun h i hi => ⟨by omega, h.2 _ (by omega) (by omega)⟩
  · intro h
    refine ⟨by have := (h (n - 1) (by omega)).1; omega, fun x h1 h2 => ?_⟩
    have := (h (x - a) (by omega)).2
    rwa [show a + (x - a) = x by omega] at this

/-- A mapped range does not pass 2^32 (R76). -/
theorem Params.mappedRange_le {p : Params} {a n : Nat} (h : p.mappedRange a n = true) :
    n = 0 ∨ a + n ≤ 4294967296 := by
  simp only [Params.mappedRange, Bool.or_eq_true, Bool.and_eq_true, decide_eq_true_eq] at h
  exact h.imp id (·.1)

/-- Part of a mapped range is mapped. -/
theorem Params.mappedRange_part {p : Params} {a n b k : Nat} (h : p.mappedRange a n = true) (h1 : a ≤ b) (h2 : b + k ≤ a + n) :
    p.mappedRange b k = true := by
  rw [Params.mappedRange_iff] at h ⊢
  intro i hi
  have := h (b + i - a) (by omega)
  rwa [show a + (b + i - a) = b + i by omega] at this

end Sys2Proof

namespace Sys2Proof.Machine
open Sys2Proof

@[simp] theorem enabledOr_some (s t : State) : enabledOr s (some t) = .next t := rfl
@[simp] theorem enabledOr_none (s : State) : enabledOr s none = .next s := rfl

theorem enabledOr_next {s t : State} {o : Option State} (h : enabledOr s o = .next t) : o = some t ∨ (o = none ∧ t = s) := by
  cases o with
  | none => cases h; exact .inr ⟨rfl, rfl⟩
  | some u => cases h; exact .inl rfl

theorem State.withMem_mem_self (s : State) : s.withMem s.mem = s := rfl

theorem State.withMem_withMem (s : State) (m m' : Memory) : (s.withMem m).withMem m' = s.withMem m' := rfl

/-- Two changes of memory only are one. -/
theorem State.onlyMem_trans {s t u : State} (h : t = s.withMem t.mem) (h' : u = t.withMem u.mem) : u = s.withMem u.mem := by
  generalize u.mem = m at h'
  subst h'
  generalize t.mem = m' at h
  subst h
  rfl

@[simp] theorem State.admitsWord_withMem (s : State) (m : Memory) (a : Word) :
    (s.withMem m).admitsWord a = s.admitsWord a := rfl

theorem State.admitsWord_bound {s : State} {a : Word} (h : s.admitsWord a = true) :
    a.toNat % 4 = 0 ∧ a.toNat + 4 ≤ 4294967296 := by
  simp only [State.admitsWord, Bool.and_eq_true, decide_eq_true_eq] at h
  have := Params.mappedRange_le h.2
  omega

theorem State.loadWord_of_admits {s : State} {a : Word} (h : s.admitsWord a = true) :
    s.loadWord a = some (s.mem.wordAt a.toNat) := by rw [State.loadWord, if_pos h]

theorem State.loadWord_some {s : State} {a w : Word} (h : s.loadWord a = some w) :
    s.admitsWord a = true ∧ w = s.mem.wordAt a.toNat := by
  simp only [State.loadWord] at h
  split at h
  · cases h; exact ⟨‹_›, rfl⟩
  · cases h

theorem State.storeWord_of_admits {s : State} {a : Word} (v : Word) (h : s.admitsWord a = true) :
    s.storeWord a v = some (s.withMem (s.mem.writeBytes a.toNat (bytesOfWord v))) := by rw [State.storeWord, if_pos h]

/-- `MemWrite(a, 4, v)`: only the memory changes, it keeps its form, the word reads back, the rest is as it was. -/
theorem State.storeWord_some {s t : State} {a v : Word} (h : s.storeWord a v = some t) :
    s.admitsWord a = true ∧ t = s.withMem t.mem ∧ (s.mem.wf = true → t.mem.wf = true)
      ∧ (s.mem.wf = true → t.mem.wordAt a.toNat = v) ∧ SameOutside s.mem t.mem a.toNat 4 := by
  simp only [State.storeWord] at h
  split at h
  · rename_i ha
    have hb := (State.admitsWord_bound ha).2
    cases h
    exact ⟨ha, rfl, fun hm => Memory.wf_writeBytes hm _ (.inr (by simpa using hb)),
      fun hm => Memory.wordAt_write_self hm v hb, fun x hx => Memory.read_writeBytes_outside _ _ (by simpa using hx)⟩
  · cases h

theorem State.storeBytes_of_mapped {s : State} {a : Word} {bs : List Byte}
    (h : s.par.mappedRange a.toNat bs.length = true) :
    s.storeBytes a bs = some (s.withMem (s.mem.writeBytes a.toNat bs)) := by rw [State.storeBytes, if_pos h]

/-- Bytes written: only the memory changes, it keeps its form, the bytes read back, the rest is as it was. -/
theorem State.storeBytes_some {s t : State} {a : Word} {bs : List Byte} (h : s.storeBytes a bs = some t) :
    s.par.mappedRange a.toNat bs.length = true ∧ t = s.withMem t.mem ∧ (s.mem.wf = true → t.mem.wf = true)
      ∧ (s.mem.wf = true → ∀ i (hi : i < bs.length), t.mem.read (a.toNat + i) = bs[i])
      ∧ SameOutside s.mem t.mem a.toNat bs.length := by
  simp only [State.storeBytes] at h
  split at h
  · rename_i ha
    have hb := Params.mappedRange_le ha
    cases h
    refine ⟨ha, rfl, fun hm => Memory.wf_writeBytes hm _ (hb.imp_left List.eq_nil_of_length_eq_zero), fun hm i hi => ?_,
      fun x hx => Memory.read_writeBytes_outside _ _ hx⟩
    exact Memory.read_writeBytes_inside hm bs (by omega) hi
  · cases h

theorem State.loadBytes_of_mapped {s : State} {a : Word} {n : Nat} (h : s.par.mappedRange a.toNat n = true) :
    s.loadBytes a n = some (s.mem.readBytes a.toNat n) := by rw [State.loadBytes, if_pos h]

/-- `MemCopy`: only the memory and the count of free values change, the memory keeps its form, nothing outside the destination
is written, and where the ranges do not overlap the destination holds the source's bytes. -/
theorem State.memCopy_some {s t : State} {dst src : Word} {n : Nat} (h : s.memCopy dst src n = some t) :
    (s.par.mappedRange dst.toNat n = true ∧ s.par.mappedRange src.toNat n = true)
      ∧ t = (s.withMem t.mem).spend (t.draws - s.draws) ∧ (s.mem.wf = true → t.mem.wf = true)
      ∧ SameOutside s.mem t.mem dst.toNat n
      ∧ (rangesOverlap dst.toNat src.toNat n = false → t.draws = s.draws ∧
          (s.mem.wf = true → ∀ i, i < n → t.mem.read (dst.toNat + i) = s.mem.read (src.toNat + i))) := by
  simp only [State.memCopy] at h
  split at h
  · rename_i hm
    rw [Bool.and_eq_true] at hm
    have hb := Params.mappedRange_le hm.1
    split at h
    · rename_i ho
      cases h
      refine ⟨hm, ?_, fun hw => Memory.wf_writeBytes hw _ (hb.imp (fun h0 => ?_) (by simp)), fun x hx => ?_, ?_⟩
      · simp [State.spend, State.withMem]
      · exact List.eq_nil_of_length_eq_zero (by simp [h0])
      · exact Memory.read_writeBytes_outside _ _ (by simpa using hx)
      · simp [ho]
    · cases h
      refine ⟨hm, ?_, fun hw => Memory.wf_writeBytes hw _ (hb.imp (fun h0 => ?_) (by simp)), fun x hx => ?_, fun _ => ⟨rfl, fun hw i hi => ?_⟩⟩
      · simp [State.spend, State.withMem]
      · exact List.eq_nil_of_length_eq_zero (by simp [h0])
      · exact Memory.read_writeBytes_outside _ _ (by simpa using hx)
      · have := Memory.read_writeBytes_inside hw (a := dst.toNat) (i := i) (s.mem.readBytes src.toNat n)
          (by simp; omega) (by simpa using hi)
        simp only [State.withMem_mem]
        rw [this, Memory.getElem_readBytes]
  · cases h

/-- Where `MemCopy`'s ranges are mapped, it is performed. -/
theorem State.memCopy_enabled {s : State} {dst src : Word} {n : Nat}
    (hd : s.par.mappedRange dst.toNat n = true) (hs : s.par.mappedRange src.toNat n = true) :
    ∃ t, s.memCopy dst src n = some t := by
  simp only [State.memCopy, hd, hs, Bool.and_self, if_true]
  split <;> exact ⟨_, rfl⟩

/-- A field update of `W0`: the word is changed as said, nothing else. -/
theorem State.updateW0_some {s t : State} {d : Word} {f : Word → Word} (h : s.updateW0 d f = some t) :
    s.admitsWord (w0Addr d) = true ∧ t = s.withMem t.mem ∧ (s.mem.wf = true → t.mem.wf = true)
      ∧ (s.mem.wf = true → t.mem.wordAt (w0Addr d).toNat = f (s.mem.wordAt (w0Addr d).toNat))
      ∧ SameOutside s.mem t.mem (w0Addr d).toNat 4 := by
  simp only [State.updateW0, Option.bind_eq_some_iff] at h
  obtain ⟨w, hw, h⟩ := h
  obtain ⟨-, rfl⟩ := State.loadWord_some hw
  exact State.storeWord_some h

theorem State.updateW0_enabled {s : State} {d : Word} (f : Word → Word) (h : s.admitsWord (w0Addr d) = true) :
    ∃ t, s.updateW0 d f = some t :=
  ⟨_, by rw [State.updateW0, State.loadW0, State.loadWord_of_admits h, Option.bind_some, State.storeWord_of_admits _ h]⟩

/-- A field update of `W1`: the word is changed as said, nothing else. -/
theorem State.updateW1_some {s t : State} {d : Word} {f : Word → Word} (h : s.updateW1 d f = some t) :
    s.admitsWord (w1Addr d) = true ∧ t = s.withMem t.mem ∧ (s.mem.wf = true → t.mem.wf = true)
      ∧ (s.mem.wf = true → t.mem.wordAt (w1Addr d).toNat = f (s.mem.wordAt (w1Addr d).toNat))
      ∧ SameOutside s.mem t.mem (w1Addr d).toNat 4 := by
  simp only [State.updateW1, Option.bind_eq_some_iff] at h
  obtain ⟨w, hw, h⟩ := h
  obtain ⟨-, rfl⟩ := State.loadWord_some hw
  exact State.storeWord_some h

theorem State.updateW1_enabled {s : State} {d : Word} (f : Word → Word) (h : s.admitsWord (w1Addr d) = true) :
    ∃ t, s.updateW1 d f = some t :=
  ⟨_, by rw [State.updateW1, State.loadW1, State.loadWord_of_admits h, Option.bind_some, State.storeWord_of_admits _ h]⟩

/-- A word outside the bytes that changed reads as before. -/
theorem SameOutside.wordAt {m m' : Memory} {a n b : Nat} (h : SameOutside m m' a n) (hb : b + 4 ≤ a ∨ a + n ≤ b) :
    m'.wordAt b = m.wordAt b :=
  Memory.wordAt_congr fun _ _ => h _ (by omega)

/-- Two aligned words at different addresses do not overlap. -/
theorem admitsWord_disjoint {s : State} {a b : Word} (ha : s.admitsWord a = true) (hb : s.admitsWord b = true) (h : a ≠ b) :
    a.toNat + 4 ≤ b.toNat ∨ b.toNat + 4 ≤ a.toNat := by
  have h1 := State.admitsWord_bound ha
  have h2 := State.admitsWord_bound hb
  have h3 : a.toNat ≠ b.toNat := fun e => h (BitVec.eq_of_toNat_eq e)
  omega

end Sys2Proof.Machine
end

