-- ==== Sys2Proof/Laws/PerInstr.lean ====
section
/-! SUPPORT. One lemma per constructor of `Instr` for each family of statements about instructions as syntax. -/

namespace Sys2Proof.Laws.EncodeFixedBits
open Sys2Proof

/-- The bits the opcode table fixes for the instruction's row stand in its word as the table has them. -/
def Statement (i : Instr) : Prop := encode i &&& i.tableMask = i.tableMatch

theorem initRxRing : Statement .initRxRing := by unfold Statement; decide
theorem initTxRing : Statement .initTxRing := by unfold Statement; decide
theorem send : Statement .send := by unfold Statement; decide
theorem receive (block : Bool) : Statement (.receive block) := by unfold Statement; revert block; decide
theorem pollRx : Statement .pollRx := by unfold Statement; decide
theorem readPhy : Statement .readPhy := by unfold Statement; decide
theorem writePhy : Statement .writePhy := by unfold Statement; decide
theorem getMac : Statement .getMac := by unfold Statement; decide
theorem setMac : Statement .setMac := by unfold Statement; decide
theorem miiRead (pa ri : BitVec 5) : Statement (.miiRead pa ri) := by unfold Statement; revert pa ri; decide
theorem miiWrite (pa ri : BitVec 5) : Statement (.miiWrite pa ri) := by unfold Statement; revert pa ri; decide

end Sys2Proof.Laws.EncodeFixedBits

namespace Sys2Proof.Laws.UnitOfFormat
open Sys2Proof Sys2Proof.Machine

/-- A command belongs to a unit (R83); a request-word operation belongs to MIIENG, to none of the three. -/
def Statement (i : Instr) : Prop := (unitOf i).isSome = decide (i.format = .cmd)

theorem initRxRing : Statement .initRxRing := rfl
theorem initTxRing : Statement .initTxRing := rfl
theorem send : Statement .send := rfl
theorem receive (block : Bool) : Statement (.receive block) := rfl
theorem pollRx : Statement .pollRx := rfl
theorem readPhy : Statement .readPhy := rfl
theorem writePhy : Statement .writePhy := rfl
theorem getMac : Statement .getMac := rfl
theorem setMac : Statement .setMac := rfl
theorem miiRead (pa ri : BitVec 5) : Statement (.miiRead pa ri) := rfl
theorem miiWrite (pa ri : BitVec 5) : Statement (.miiWrite pa ri) := rfl

end Sys2Proof.Laws.UnitOfFormat
end

