-- ==== Sys2Proof/Laws/Ring.lean ====
section
/-! SUPPORT. What writing descriptors can do (R113, R114): only memory changes, inside the ring, and each descriptor's words read
back. -/

namespace Sys2Proof.Machine
open Sys2Proof

/-- Descriptor `d` lies below 2^32, so its four words stand at `d`, `d + 4`, `d + 8`, `d + 12`. -/
theorem wordAddrs {d : Word} (h : d.toNat + 16 ≤ 4294967296) :
    (w0Addr d).toNat = d.toNat ∧ (w1Addr d).toNat = d.toNat + 4 ∧ (w2Addr d).toNat = d.toNat + 8
      ∧ (w3Addr d).toNat = d.toNat + 12 := by
  have := d.isLt
  refine ⟨rfl, ?_, ?_, ?_⟩ <;> simp only [w1Addr, w2Addr, w3Addr, BitVec.toNat_add, BitVec.toNat_ofNat] <;> omega

theorem descAddr_toNat {base : Word} {i : Nat} (h : base.toNat + 16 * i < 4294967296) :
    (descAddr base i).toNat = base.toNat + 16 * i := by
  simp only [descAddr, BitVec.toNat_add, BitVec.toNat_ofNat]
  omega

/-- Writing a descriptor changes memory only, and only its 16 bytes. -/
theorem State.writeDesc_some {s t : State} {d w0 w1 w2 w3 : Word} (h : s.writeDesc d w0 w1 w2 w3 = some t)
    (hd : d.toNat + 16 ≤ 4294967296) :
    t = s.withMem t.mem ∧ (s.mem.wf = true → t.mem.wf = true) ∧ SameOutside s.mem t.mem d.toNat 16
      ∧ (s.mem.wf = true → t.mem.wordAt (w0Addr d).toNat = w0 ∧ t.mem.wordAt (w1Addr d).toNat = w1
          ∧ t.mem.wordAt (w2Addr d).toNat = w2 ∧ t.mem.wordAt (w3Addr d).toNat = w3) := by
  simp only [State.writeDesc, Option.bind_eq_some_iff] at h
  obtain ⟨a, ha, b, hb, c, hc, ht⟩ := h
  obtain ⟨-, ea, fa, va, oa⟩ := State.storeWord_some ha
  obtain ⟨-, eb, fb, vb, ob⟩ := State.storeWord_some hb
  obtain ⟨-, ec, fc, vc, oc⟩ := State.storeWord_some hc
  obtain ⟨-, et, ft, vt, ot⟩ := State.storeWord_some ht
  obtain ⟨h0, h1, h2, h3⟩ := wordAddrs hd
  rw [h0] at va oa
  rw [h1] at vb ob
  rw [h2] at vc oc
  rw [h3] at vt ot
  refine ⟨State.onlyMem_trans (State.onlyMem_trans (State.onlyMem_trans ea eb) ec) et, fun hm => ft (fc (fb (fa hm))), fun x hx => ?_, fun hm => ?_⟩
  · rw [ot x (by omega), oc x (by omega), ob x (by omega), oa x (by omega)]
  · rw [h0, h1, h2, h3]
    refine ⟨?_, ?_, ?_, vt (fc (fb (fa hm)))⟩
    · rw [ot.wordAt (by omega), oc.wordAt (by omega), ob.wordAt (by omega), va hm]
    · rw [ot.wordAt (by omega), oc.wordAt (by omega), vb (fa hm)]
    · rw [ot.wordAt (by omega), vc (fb (fa hm))]

theorem State.writeDesc_enabled {s : State} {d : Word} (w0 w1 w2 w3 : Word)
    (h0 : s.admitsWord (w0Addr d) = true) (h1 : s.admitsWord (w1Addr d) = true) (h2 : s.admitsWord (w2Addr d) = true)
    (h3 : s.admitsWord (w3Addr d) = true) : ∃ t, s.writeDesc d w0 w1 w2 w3 = some t := by
  simp [State.writeDesc, State.storeWord, h0, h1, h2, h3]

/-- The loop over descriptors 0 to `k - 1` changes memory only, keeps the canonical form. -/
theorem State.initDescs_mem {s t : State} {dbase bbase : Word} {n cap k : Nat} {w0 w1 : Word}
    (h : s.initDescs dbase bbase n cap w0 w1 k = some t) : t = s.withMem t.mem ∧ (s.mem.wf = true → t.mem.wf = true) := by
  induction k generalizing t with
  | zero => cases h; exact ⟨rfl, id⟩
  | succ k ih =>
    simp only [State.initDescs, State.writeDesc, Option.bind_eq_some_iff] at h
    obtain ⟨u, hu, a, ha, b, hb, c, hc, ht⟩ := h
    obtain ⟨eu, fu⟩ := ih hu
    obtain ⟨-, ea, fa, -, -⟩ := State.storeWord_some ha
    obtain ⟨-, eb, fb, -, -⟩ := State.storeWord_some hb
    obtain ⟨-, ec, fc, -, -⟩ := State.storeWord_some hc
    obtain ⟨-, et, ft, -, -⟩ := State.storeWord_some ht
    exact ⟨State.onlyMem_trans (State.onlyMem_trans (State.onlyMem_trans (State.onlyMem_trans eu ea) eb) ec) et, fun hm => ft (fc (fb (fa (fu hm))))⟩

/-- What the loop over descriptors 0 to `k - 1` leaves, the ring inside the address space. -/
theorem State.initDescs_some {s t : State} {dbase bbase : Word} {n cap k : Nat} {w0 w1 : Word}
    (h : s.initDescs dbase bbase n cap w0 w1 k = some t) (hd : dbase.toNat + 16 * k ≤ 4294967296) (hm : s.mem.wf = true) :
    SameOutside s.mem t.mem dbase.toNat (16 * k)
      ∧ ∀ i, i < k → t.mem.wordAt (w0Addr (descAddr dbase i)).toNat = w0
          ∧ t.mem.wordAt (w1Addr (descAddr dbase i)).toNat = w1
          ∧ t.mem.wordAt (w2Addr (descAddr dbase i)).toNat = bufAddr bbase cap i
          ∧ t.mem.wordAt (w3Addr (descAddr dbase i)).toNat = descAddr dbase ((i + 1) % n) := by
  induction k generalizing t with
  | zero => cases h; exact ⟨fun _ _ => rfl, fun i hi => absurd hi (Nat.not_lt_zero i)⟩
  | succ k ih =>
    simp only [State.initDescs, Option.bind_eq_some_iff] at h
    obtain ⟨u, hu, ht⟩ := h
    obtain ⟨ou, vu⟩ := ih hu (by omega)
    have hk : (descAddr dbase k).toNat = dbase.toNat + 16 * k := descAddr_toNat (by omega)
    obtain ⟨-, -, ot, vt⟩ := State.writeDesc_some ht (by omega)
    rw [hk] at ot
    refine ⟨fun x hx => by rw [ot x (by omega), ou x (by omega)], fun i hi => ?_⟩
    by_cases hik : i = k
    · subst hik
      exact vt ((State.initDescs_mem hu).2 hm)
    · have hi' : i < k := by omega
      obtain ⟨a0, a1, a2, a3⟩ := wordAddrs (d := descAddr dbase i) (by rw [descAddr_toNat (by omega)]; omega)
      rw [descAddr_toNat (by omega)] at a0 a1 a2 a3
      have hv := vu i hi'
      rw [a0, a1, a2, a3] at hv ⊢
      rw [ot.wordAt (by omega), ot.wordAt (by omega), ot.wordAt (by omega), ot.wordAt (by omega)]
      exact hv

/-- Where every word of the ring is admitted, the loop is performed. -/
theorem State.initDescs_enabled {s : State} {dbase : Word} (bbase : Word) (n cap : Nat) (w0 w1 : Word) {k : Nat}
    (h : ∀ i, i < k → s.admitsWord (w0Addr (descAddr dbase i)) = true ∧ s.admitsWord (w1Addr (descAddr dbase i)) = true
      ∧ s.admitsWord (w2Addr (descAddr dbase i)) = true ∧ s.admitsWord (w3Addr (descAddr dbase i)) = true) :
    ∃ t, s.initDescs dbase bbase n cap w0 w1 k = some t := by
  induction k with
  | zero => exact ⟨s, rfl⟩
  | succ k ih =>
    obtain ⟨u, hu⟩ := ih fun i hi => h i (by omega)
    obtain ⟨h0, h1, h2, h3⟩ := h k (by omega)
    rw [State.initDescs, hu]
    have e := (State.initDescs_mem hu).1
    exact State.writeDesc_enabled _ _ _ _ (by rw [e]; exact h0) (by rw [e]; exact h1) (by rw [e]; exact h2) (by rw [e]; exact h3)

/-- A range inside one that is always mapped is mapped (R76). -/
theorem Params.mappedRange_inside {p : Params} {b len a n : Nat} (hr : (b, len) ∈ p.regions)
    (h1 : b ≤ a) (h2 : a + n ≤ b + len) (h3 : b + len ≤ 4294967296) : p.mappedRange a n = true := by
  rw [Params.mappedRange_iff]
  intro i hi
  simp only [Params.mappedAt, Bool.and_eq_true, decide_eq_true_eq]
  exact ⟨by omega, List.any_eq_true.2 ⟨_, List.mem_append_left _ hr, by simp [inRange]; omega⟩⟩

/-- The words of a descriptor of a well-placed ring are admitted (R5, R64, R76). -/
theorem admits_desc_words {s : State} {dbase : Word} {n i : Nat} (hr : (dbase.toNat, 16 * n) ∈ s.par.regions)
    (ha : dbase.toNat % 4 = 0) (hb : dbase.toNat + 16 * n ≤ 4294967296) (hi : i < n) :
    s.admitsWord (w0Addr (descAddr dbase i)) = true ∧ s.admitsWord (w1Addr (descAddr dbase i)) = true
      ∧ s.admitsWord (w2Addr (descAddr dbase i)) = true ∧ s.admitsWord (w3Addr (descAddr dbase i)) = true := by
  have hk : (descAddr dbase i).toNat = dbase.toNat + 16 * i := descAddr_toNat (by omega)
  obtain ⟨a0, a1, a2, a3⟩ := wordAddrs (d := descAddr dbase i) (by omega)
  simp only [State.admitsWord, Bool.and_eq_true, decide_eq_true_eq, a0, a1, a2, a3, hk]
  refine ⟨⟨by omega, ?_⟩, ⟨by omega, ?_⟩, ⟨by omega, ?_⟩, ⟨by omega, ?_⟩⟩ <;>
    exact Params.mappedRange_inside hr (by omega) (by omega) hb

/-- What `Params.wf` says of the two descriptor rings (R5). -/
theorem Params.wf_rings {p : Params} (h : p.wf = true) :
    1 ≤ p.nTx ∧ 1 ≤ p.nRx ∧ 1 ≤ p.capTx ∧ p.capTx ≤ 65535 ∧ 1 ≤ p.capRx ∧ p.capRx ≤ 65535 ∧ 5 ≤ p.nRx * p.capRx
      ∧ p.nTx * p.capTx < 2147483648 ∧ p.nRx * p.capRx < 2147483648
      ∧ p.txdBase.toNat % 4 = 0 ∧ p.rxdBase.toNat % 4 = 0
      ∧ p.txdBase.toNat + 16 * p.nTx ≤ 4294967296 ∧ p.rxdBase.toNat + 16 * p.nRx ≤ 4294967296
      ∧ p.copyCh < p.nCh ∧ p.waitBudget ≠ some 0 := by
  simp only [Params.wf, Params.sizesOk, Params.placementOk, Params.enginesOk, Params.regions, List.all_cons,
    Bool.and_eq_true, decide_eq_true_eq] at h
  obtain ⟨⟨⟨⟨⟨⟨⟨⟨⟨⟨⟨h1, h2⟩, h3⟩, h4⟩, h5⟩, h6⟩, h7⟩, h8⟩, h9⟩, ⟨⟨⟨h10, h11⟩, -⟩, -⟩, h12, h13, -⟩, h14, h15⟩, -⟩ := h
  exact ⟨h1, h2, h3, h4, h5, h6, h7, h8, h9, h10, h11, h12, h13, h14, h15⟩

end Sys2Proof.Machine
end

