-- ==== Sys2Proof/Tests/Slice0.lean ====
section
/-! SUPPORT. The model's own tests. Expected values come from the encoding tables of 30_encoding.md and the vectors of
95_test_vectors.md; each test names its source. Then, for every statement with hypotheses, a concrete state that meets them. -/

namespace Sys2Proof.Tests
open Sys2Proof Sys2Proof.Machine

set_option maxRecDepth 100000

/-! States and outcomes. -/

/-- A field of the next state, none where the step stops. -/
def look {α : Type} (r : Result) (f : State → α) : Option α :=
  match r with
  | .next t => some (f t)
  | .fault _ => none
  | .refused _ => none

/-- The memory after both ring initialisations. -/
def ringMem : Memory :=
  match State.reset.initTxDescs.bind State.initRxDescs with
  | some t => t.mem
  | none => []

/-- A state that is `Ready` (R300). -/
def ready : State :=
  { State.reset with
    mem := ringMem, macEn := true, irqEn := true, txBase := 0x20000000#32, txBaseSet := true,
    rxBase := 0x20004000#32, rxBaseSet := true, txCur := 0x20000000#32, rxCur := 0x20004000#32,
    dma := { State.reset.dma with txPtr := 0x20000000#32, rxPtr := 0x20004000#32 } }

/-- A word of memory replaced. -/
def put (s : State) (a v : Word) : State := (s.storeWord a v).getD s

/-- TXU in a state, its descriptor at slot 1 (V-TX-12). -/
def txAt (st : TxuState) : State :=
  { ready with txCur := 0x20000010#32, txu := { ready.txu with
      state := st, src := 0x20010000#32, len := 100#32, rem := 100#32, cnt := 1, frag := 100,
      first := 0x20000010#32, last := 0x20000010#32, g := 0x20000010#32 } }

/-- RXU in a state, walking from slot 0, destination 0x20020000. -/
def rxAt (st : RxuState) : State :=
  { ready with rxu := { ready.rxu with
      state := st, dst := 0x20020000#32, max := 1500#32, p := 0x20004000#32, q := 0x20004000#32 } }

/-- TXU in a state, its registers changed. -/
def txWith (st : TxuState) (f : Txu → Txu) : State := { txAt st with txu := f (txAt st).txu }

/-- RXU in a state, its registers changed. -/
def rxWith (st : RxuState) (f : Rxu → Rxu) : State := { rxAt st with rxu := f (rxAt st).rxu }

/-- MIU in a state. -/
def miuAt (st : MiuState) (req : Word) : State := { State.reset with miiReq := req, miu := { State.reset.miu with state := st } }

/-- Parameters with a wait budget. -/
def bounded : Params := { Params.scenario with waitBudget := some 3 }

/-- MIU waiting with a budget of 3, the engine busy with transceiver 5, some polls failed. -/
def waiting (st : MiuState) (polls : Nat) : State :=
  { miuAt st 0x2841#32 with par := bounded, miu := { (miuAt st 0#32).miu with polls := polls } }

/-! WellFormed: one ill-formed parameter record for each check (R5, R6). -/

theorem test_wf_scenario : Params.scenario.wf = true := by decide
theorem test_wf_no_tx_descriptor : { Params.scenario with nTx := 0 }.wf = false := by decide
theorem test_wf_no_rx_descriptor : { Params.scenario with nRx := 0 }.wf = false := by decide
theorem test_wf_tx_capacity_zero : { Params.scenario with capTx := 0 }.wf = false := by decide
theorem test_wf_tx_capacity_large : { Params.scenario with capTx := 65536, mappedExtra := [] }.sizesOk = false := by decide
theorem test_wf_rx_capacity_zero : { Params.scenario with capRx := 0 }.wf = false := by decide
theorem test_wf_rx_capacity_large : { Params.scenario with capRx := 65536 }.sizesOk = false := by decide
theorem test_wf_rx_ring_below_a_frame : { Params.scenario with nRx := 1, capRx := 4 }.wf = false := by decide
theorem test_wf_tx_pool_large : { Params.scenario with nTx := 32769, capTx := 65535 }.sizesOk = false := by decide
theorem test_wf_rx_pool_large : { Params.scenario with nRx := 32769, capRx := 65535 }.sizesOk = false := by decide
theorem test_wf_tx_base_unaligned : { Params.scenario with txdBase := 0x20000002#32 }.wf = false := by decide
theorem test_wf_rx_base_unaligned : { Params.scenario with rxdBase := 0x20004001#32 }.wf = false := by decide
theorem test_wf_tx_pool_at_zero : { Params.scenario with txbBase := 0#32 }.wf = false := by decide
theorem test_wf_rx_pool_at_zero : { Params.scenario with rxbBase := 0#32 }.wf = false := by decide
theorem test_wf_region_wraps : { Params.scenario with rxdBase := 0xFFFFFFE0#32 }.wf = false := by decide
theorem test_wf_region_to_the_end : { Params.scenario with rxdBase := 0xFFFFFFD0#32 }.wf = true := by decide
theorem test_wf_copy_channel_absent : { Params.scenario with copyCh := 1 }.wf = false := by decide
theorem test_wf_wait_budget_zero : { Params.scenario with waitBudget := some 0 }.wf = false := by decide
theorem test_wf_regions_overlap : { Params.scenario with txbBase := 0x2000002C#32 }.wf = false := by decide

/-! Decoding: words written out field by field. CMD is reserved[31:9], `BLK`[8], `OP`[7:0] (R81, R83); MIIREQ is reserved[31:16],
`PA`[15:11], `RI`[10:6], reserved[5:2], `WR`[1], `BUSY`[0] (R90). -/

theorem test_decode_initRxRing : decode .cmd (0#23 ++ 0#1 ++ 0x01#8) = .ok .initRxRing := rfl
theorem test_decode_initTxRing : decode .cmd (0#23 ++ 0#1 ++ 0x02#8) = .ok .initTxRing := rfl
theorem test_decode_send : decode .cmd (0#23 ++ 0#1 ++ 0x03#8) = .ok .send := rfl
theorem test_decode_receive : decode .cmd (0#23 ++ 0#1 ++ 0x04#8) = .ok (.receive false) := rfl
theorem test_decode_receive_blocking : decode .cmd (0#23 ++ 1#1 ++ 0x04#8) = .ok (.receive true) := rfl
theorem test_decode_pollRx : decode .cmd (0#23 ++ 0#1 ++ 0x05#8) = .ok .pollRx := rfl
theorem test_decode_readPhy : decode .cmd (0#23 ++ 0#1 ++ 0x06#8) = .ok .readPhy := rfl
theorem test_decode_writePhy : decode .cmd (0#23 ++ 0#1 ++ 0x07#8) = .ok .writePhy := rfl
theorem test_decode_getMac : decode .cmd (0#23 ++ 0#1 ++ 0x08#8) = .ok .getMac := rfl
theorem test_decode_setMac : decode .cmd (0#23 ++ 0#1 ++ 0x09#8) = .ok .setMac := rfl
/-- V-MII-6: the reserved bits are ignored. -/
theorem test_decode_miiRead : decode .miireq (0xABCD#16 ++ 1#5 ++ 2#5 ++ 0xF#4 ++ 0#1 ++ 1#1) = .ok (.miiRead 1#5 2#5) := rfl
/-- V-MII-4. -/
theorem test_decode_miiWrite : decode .miireq (0#16 ++ 31#5 ++ 31#5 ++ 0#4 ++ 1#1 ++ 1#1) = .ok (.miiWrite 31#5 31#5) := rfl
/-- V-CMD-15, V-CMD-16, V-CMD-17: the reserved check comes first. -/
theorem test_decode_reserved : decode .cmd 0x00000204#32 = .error .reservedBits ∧ decode .cmd 0x80000003#32 = .error .reservedBits
    ∧ decode .cmd 0x0000010A#32 = .error .reservedBits := ⟨rfl, rfl, rfl⟩
/-- V-CMD-11 to V-CMD-13. -/
theorem test_decode_illegal : decode .cmd 0x00000000#32 = .error .illegalOp ∧ decode .cmd 0x0000000A#32 = .error .illegalOp
    ∧ decode .cmd 0x000000FF#32 = .error .illegalOp := ⟨rfl, rfl, rfl⟩
/-- R90: `BUSY = 0` starts nothing. -/
theorem test_decode_not_busy : decode .miireq 0x00000880#32 = .error .notBusy := rfl
/-- The opcode table's numbering: a word of the table reaches the decoder as it stands. -/
theorem test_decodeTableWord : decodeTableWord 32 0x104 = some (.receive true) ∧ decodeTableWord 32 0x881 = some (.miiRead 1#5 2#5)
    ∧ decodeTableWord 32 0x803 = some (.miiWrite 1#5 0#5) ∧ decodeTableWord 32 0xA = none := ⟨rfl, rfl, rfl, rfl⟩

/-! Commands. -/

/-- V-RING-2: slot 1's buffer and slot 2's next. -/
theorem test_initRxRing : look (exec .initRxRing State.reset) (fun t => (t.mem.wordAt 0x20004018, t.mem.wordAt 0x2000402C))
    = some (0x200055DC#32, 0x20004000#32) := by decide
/-- V-CMD-20. -/
theorem test_initRxRing_not_allowed : look (exec .initRxRing ready) (fun t => (t.cmdFault, t.mem)) = some (.notAllowed, ringMem) := by
  decide
/-- V-RING-1: slot 1's buffer and slot 2's next. -/
theorem test_initTxRing : look (exec .initTxRing State.reset) (fun t => (t.mem.wordAt 0x20000018, t.mem.wordAt 0x2000002C))
    = some (0x200015DC#32, 0x20000000#32) := by decide
/-- V-RING-5: nothing of the old contents survives. -/
theorem test_initTxRing_over_garbage : look (exec .initTxRing (put State.reset 0x20000010#32 0xFFFFFFFF#32))
    (fun t => t.mem.wordAt 0x20000010) = some 0#32 := by decide
/-- V-CMD-18. -/
theorem test_send_busy : look (exec .send (txAt .waitOwn)) (fun t => (t.cmdFault, t.txu)) = some (.unitBusy, (txAt .waitOwn).txu) := by
  decide
/-- V-TX-10. -/
theorem test_send_overflow : look (txuStep (txWith .check fun r => { r with len := 4501#32 }))
    (fun t => (t.txResult, t.txCode, t.txCur)) = some (0xFFFFFFFF#32, .fragOverflow, 0x20000010#32) := by decide
/-- V-RX-4: not even 49 bytes are copied. -/
theorem test_receive_overflow : look (rxuStep (rxWith .len fun r => { r with fl := 54#14, k := 1, max := 49#32 }))
    (fun t => (t.rxu.res, t.rxu.code, t.rxu.state)) = some (0xFFFFFFFE#32, .rxOverflow, .retire) := by decide
/-- V-RX-9: 1501 bytes in one descriptor of 1500. -/
theorem test_receive_malformed : look (rxuStep (rxWith .len fun r => { r with fl := 1501#14, k := 1 }))
    (fun t => (t.rxu.res, t.rxu.code)) = some (0xFFFFFFFB#32, .malformed) := by decide
/-- V-RX-16, the state of V-RX-5 and that of V-RX-1. -/
theorem test_pollRx : look (exec .pollRx ready) (fun t => t.rxResult) = some 0#32
    ∧ look (exec .pollRx (put ready 0x20004000#32 0x300D8000#32)) (fun t => t.rxResult) = some 1#32 := by decide
/-- V-MII-6. -/
theorem test_readPhy : look (miuStep { miuAt .req 0xABCD003C#32 with
    miu := { pa := 1#5, ri := 2#5, val := 0#16, wr := false, polls := 0, state := .req } }) (fun t => t.miiReq)
    = some 0xABCD08BD#32 := by decide
/-- V-MII-7: operands cut to 5 bits. -/
theorem test_readPhy_operands : look (exec .readPhy { State.reset with arg0 := 0x21#32, arg1 := 0x42#32 })
    (fun t => (t.miu.pa, t.miu.ri)) = some (1#5, 2#5) := by decide
/-- V-MII-8: the value cut to 16 bits. -/
theorem test_writePhy : look (exec .writePhy { State.reset with arg0 := 1#32, arg2 := 0x18000#32 })
    (fun t => (t.miu.val, t.miu.wr)) = some (0x8000#16, true) := by decide
/-- V-MII-12: the third poll ends the command. -/
theorem test_writePhy_timeout : look (miuStep (waiting .wait2 2))
    (fun t => (t.miiResult, t.miiCode, t.miu.state, t.miiReq)) = some (0xFFFFFFFC#32, .hwTimeout, .idle, 0x2841#32) := by decide
/-- V-MAC-4. -/
theorem test_getMac : look (exec .getMac { State.reset with arg0 := 0x100#32, macHi := 0xDEAD0211#32, macLo := 0x22334455#32 })
    (fun t => t.mem.readBytes 0x100 7) = some [0x02#8, 0x11#8, 0x22#8, 0x33#8, 0x44#8, 0x55#8, 0#8] := by decide
/-- V-MAC-3. -/
theorem test_setMac : look (exec .setMac { State.reset with
      arg0 := 0x101#32, macHi := 0xDEAD0000#32, mem := Memory.writeBytes [] 0x101 [0x02#8, 0x11#8, 0x22#8, 0x33#8, 0x44#8, 0x55#8] })
    (fun t => (t.macHi, t.macLo)) = some (0xDEAD0211#32, 0x22334455#32) := by decide
/-- V-MII-1, V-MII-10: what the engine leaves, the answer being 7. -/
theorem test_miiRead : (State.phyRead (miuAt .wait2 0x881#32) 1#5 2#5 7#16).miiReq = 0x880#32
    ∧ (State.phyRead (miuAt .wait2 0x881#32) 1#5 2#5 7#16).events = [.phyRead 1#5 2#5 7#16] := by decide
/-- V-MII-2. -/
theorem test_miiWrite : look (miiengStep { miuAt .wait2 0x803#32 with miiData := 0x8000#16 }) (fun t => (t.miiReq, t.events))
    = some (0x802#32, [.phyWrite 1#5 0#5 0x8000#16]) := by decide
/-- V-MII-13: with the race the old data is written. -/
theorem test_miiWrite_race : look (miiengStep { miuAt .data 0x803#32 with
      par := { Params.scenario with miiDataRace := true }, miiData := 0x1234#16 }) (fun t => t.events)
    = some [.phyWrite 1#5 0#5 0x1234#16] := by decide

/-! The sequencers and the agents. -/

/-- V-TX-12. -/
theorem test_txu_clear : look (txuStep (put (txAt .clear) 0x20000010#32 0x20001234#32)) (fun t => t.mem.wordAt 0x20000010)
    = some 0#32 := by decide
/-- V-TX-12. -/
theorem test_txu_record : look (txuStep (put (txAt .record) 0x20000014#32 0xE00001F4#32))
    (fun t => (t.mem.wordAt 0x20000014, t.txCur, t.txu.state)) = some (0x60000064#32, 0x20000020#32, .flagFirst) := by decide
/-- V-TX-12. -/
theorem test_txu_flag_last : look (txuStep (put (put (txAt .flagLast) 0x20000010#32 0x10000000#32) 0x20000014#32 0x60000064#32))
    (fun t => (t.mem.wordAt 0x20000010, t.mem.wordAt 0x20000014)) = some (0x30000000#32, 0xE0000064#32) := by decide
/-- V-RX-1: 50 bytes of `FL = 54`. -/
theorem test_rxu_len : look (rxuStep (rxWith .len fun r => { r with fl := 54#14, k := 1 }))
    (fun t => (t.rxu.n, t.rxu.state)) = some (50, .copy) := by decide
/-- V-RX-6: a later hardware-owned descriptor. -/
theorem test_rxu_no_data : look (rxuStep (rxWith .scan fun r => { r with p := 0x20004020#32, k := 2 }))
    (fun t => (t.rxResult, t.rxCode, t.rxCur)) = some (0#32, .noData, 0x20004000#32) := by decide
/-- V-SYNC-4 (b). -/
theorem test_spurious_completion : look (turnStep .irq { ready with locked := false, copy := { ready.copy with tc := [true] } })
    (fun t => (t.statusWord, t.locked, t.copy.tc)) = some (0x100#32, false, [false]) := by decide
/-- V-DMA-2: `W0` and the events of a last descriptor, here of 2 bytes. -/
theorem test_dma_transmit :
    ((dmaTransmit 0#14 { put (put ready 0x20000000#32 0xA0000000#32) 0x20000004#32 0xE0000002#32 with
        dma := { ready.dma with txRun := true, txOpen := true, txAcc := [9#8] } }).map
      fun t => (t.mem.wordAt 0x20000000, t.events)) =
    some (0x20000000#32, [.txSegment 0x20000000#32 [0#8, 0#8] false true, .txFrame [9#8, 0#8, 0#8] true, .macIrq 0x20000000#32]) := by
  decide
/-- V-DMA-5: a 54-byte frame. -/
theorem test_dma_fill :
    ((dmaFill 0#14 0#14 { ready with dma := { ready.dma with
        rxOpen := true, rxFirst := true, rxLen := 54, rxPend := List.replicate 54 7#8 } }).map
      fun t => (t.mem.wordAt 0x20004000, t.mem.read 0x20005035, t.mem.read 0x20005036, t.dma.rxOpen, t.dma.rxPtr)) =
    some (0x300D8000#32, 7#8, 0#8, false, 0x20004010#32) := by decide
/-- R247: the reserved bit comes back 0 whatever it was. -/
theorem test_dma_fill_reserved :
    ((dmaFill 0#14 0#14 { put ready 0x20004000#32 0xC0000000#32 with dma := { ready.dma with
        rxOpen := true, rxFirst := true, rxLen := 4, rxPend := [1#8, 2#8, 3#8, 4#8] } }).map fun t => t.mem.wordAt 0x20004000) =
    some 0x30010000#32 := by decide
/-- R76: of 3000 bytes from 0xFFFFFA24 the last 1500 lie past 2^32, so the first fragment, which does not, is not copied either. -/
theorem test_copy_partly_mapped : look (turnStep .copy { ready with copy := { ready.copy with
      busy := true, src := 0xFFFFFA24#32, dst := 0x20001000#32, len := 1500, payload := 0xFFFFFA24#32, payloadLen := 3000#32 } })
    (fun t => (t.copy.busy, t.copy.tc, t.mem)) = some (true, [false], ringMem) := by decide
/-- R76: the payload's last byte is the last of the address space; one more, and it is not mapped. -/
theorem test_copy_payload_to_the_top :
    ready.par.mappedRange 0xFFFFFA24 1500 = true ∧ ready.par.mappedRange 0xFFFFFA24 1501 = false := by decide
/-- R76, R190: 50 bytes to 0xFFFFFA24 with a limit of 1501, one past 2^32; there is no step. With 1500 there is. -/
theorem test_rxu_copy_limit_past_top :
    look (turnStep .rxu (rxWith .copy fun r => { r with dst := 0xFFFFFA24#32, max := 1501#32, k := 1, n := 50 }))
      (fun t => (t.rxu.copied, t.mem)) = some (0, ringMem)
    ∧ look (turnStep .rxu (rxWith .copy fun r => { r with dst := 0xFFFFFA24#32, max := 1500#32, k := 1, n := 50 }))
      (fun t => t.rxu.copied) = some 50 := by decide
/-- R76: a limit of 2^32 - 1 from address 1 is the whole space above it, mapped here, and from 2 it is not. -/
theorem test_mapped_largest_limit :
    ready.par.mappedRange 1 4294967295 = true ∧ ready.par.mappedRange 2 4294967295 = false := by decide
/-- R171: the total is reported, not the last fragment. -/
theorem test_txu_done : look (turnStep .txu (txWith .done fun r => { r with len := 4000#32, total := 4000#32, frag := 1000 }))
    (fun t => (t.txResult, t.txCode, t.txu.state)) = some (4000#32, .ok, .idle) := by decide
/-- R21, R33: the three operand registers, each at its own offset. -/
theorem test_operand_registers : look (turnStep .host { State.reset with hostQ := [.regWrite 0x08 4 7#32] })
    (fun t => (t.arg0, t.arg1, t.arg2)) = some (0#32, 7#32, 0#32) := by decide
/-- R27, R33: a register read through its offset. -/
theorem test_register_read : look (turnStep .host { ready with hostQ := [.regRead 0x4C 4] }) (fun t => t.hostRd)
    = some 0x20004000#32 := by decide
/-- R47. -/
theorem test_reset_memory_canonical : State.reset.mem.wf = true := by decide
/-- `withFetchWord` places a command for the next step, and a request word for the next step. -/
theorem test_withFetchWord :
    look (step (State.reset.withFetchWord 32 3)) (fun t => t.txu.state) = some .check
    ∧ look (step ({ State.reset with miiData := 5#16 }.withFetchWord 32 0x803)) (fun t => t.events)
      = some [.phyWrite 1#5 0#5 5#16] := by decide

/-! Witnesses: for each statement with hypotheses, a state and operands that meet them, clause by clause. -/

/-- DecodeEncodeAgree, StepRunsDecodedCommand: words that decode. -/
theorem witness_decodes : decode .cmd 0x00000001#32 = .ok .initRxRing ∧ decode .cmd 0x00000009#32 = .ok .setMac
    ∧ decode .miireq 0xFFFFFFFF#32 = .ok (.miiWrite 31#5 31#5) := ⟨rfl, rfl, rfl⟩

/-- StepRunsDecodedRequest. -/
theorem witness_StepRunsDecodedRequest : decode .miireq (miuAt .wait2 0x881#32).miiReq = .ok (.miiRead 1#5 2#5) := rfl

/-- RefusalChangesOnlyCmdFault: reserved at bits 9, 31 and 8; illegal at 0, 10, 255; busy; not allowed; accepted. -/
theorem witness_RefusalChangesOnlyCmdFault :
    ((0x00000204#32 : Word).toNat / 512 ≠ 0 ∧ (0x80000003#32 : Word).toNat / 512 ≠ 0
      ∧ (0x00000103#32 : Word).toNat / 256 % 2 = 1 ∧ (0x00000103#32 : Word).toNat % 256 ≠ 4)
    ∧ ((0#32 : Word).toNat % 256 = 0 ∧ 10 ≤ (0xA#32 : Word).toNat % 256 ∧ 10 ≤ (0xFF#32 : Word).toNat % 256
      ∧ (0xFF#32 : Word).toNat / 512 = 0 ∧ (0xFF#32 : Word).toNat / 256 % 2 = 0)
    ∧ unitOf .send = some .txu ∧ (txAt .waitOwn).busy .txu = true
    ∧ unitOf .initRxRing = some .rxu ∧ ready.busy .rxu = false ∧ ready.macEn = true
    ∧ State.reset.busy .rxu = false ∧ State.reset.macEn = false := by decide

/-- InitRxRingBuildsTheRing, InitTxRingBuildsTheRing. -/
theorem witness_init_rings : State.reset.par.wf = true ∧ State.reset.mem.wf = true ∧ State.reset.busy .rxu = false
    ∧ State.reset.busy .txu = false ∧ State.reset.macEn = false := by decide

/-- CursorAdvancesModuloRingSize. -/
theorem witness_CursorAdvancesModuloRingSize : RingClosed ready.mem 0x20000000#32 3
    ∧ ∀ i, i < 3 → ready.admitsWord (w3Addr (descAddr 0x20000000#32 i)) = true := by
  unfold RingClosed
  decide

/-- CtrlGatesMacDmaAndIrq. -/
theorem witness_CtrlGatesMacDmaAndIrq : State.reset.macEn = false ∧ State.reset.irqEn = false := by decide

/-- UnlistedAccessIsRefused: the bounds of every range are unlisted, their neighbours are not. -/
theorem witness_UnlistedAccessIsRefused :
    ([0x1C, 0x38, 0x3C, 0x54, 0x5C, 0x64, 0x7C, 0x90, 0x02].all fun off => (regAt off 4).isNone)
    ∧ ([0x18, 0x20, 0x34, 0x40, 0x50, 0x60, 0x80, 0x8C].all fun off => (regAt off 4).isSome)
    ∧ (regAt 0x00 2).isNone := by decide

/-- MiuRegistersAreProtectedWhileBusy. -/
theorem witness_MiuRegistersAreProtectedWhileBusy : (miuAt .wait2 1#32).miu.state ≠ .idle ∧ State.reset.miu.state = .idle := by decide

/-- PollSignalRestartsTransmit. -/
theorem witness_PollSignalRestartsTransmit : (txAt .poll).txu.state = .poll := by decide

/-- PhyCommandsAreAccepted, SetMacLoadsAddressRegisters, GetMacStoresSixBytes, GetMacReturnsWhatSetMacTook: the array at the last
address it can have. -/
theorem witness_miu_idle :
    let s := { State.reset with arg0 := 0xFFFFFFFA#32 }
    s.busy .miu = false ∧ s.mem.wf = true ∧ s.par.mappedRange s.arg0.toNat 6 = true := by decide

/-- UnadmittedAccessHangsTheUnit: a cursor that is no multiple of 4, and an array that passes the last address. -/
theorem witness_UnadmittedAccessHangsTheUnit :
    (let s := { State.reset with rxCur := 0x20004002#32 }
     s.busy .rxu = false ∧ s.admitsWord s.rxCur = false)
    ∧ (let s := { State.reset with arg0 := 0xFFFFFFFB#32 }
       s.busy .miu = false ∧ s.par.mappedRange s.arg0.toNat 6 = false) := by decide

/-- PhyProtocolRunsInOrder: both waits with the engine busy and idle, and every other state. -/
theorem witness_PhyProtocolRunsInOrder :
    ((miuAt .wait1 1#32).miu.state = .wait1 ∧ (miuAt .wait1 1#32).miiReq.getLsbD 0 = true
      ∧ (miuAt .wait1 1#32).par.waitBudget = none)
    ∧ ((miuAt .wait1 0#32).miu.state = .wait1 ∧ (miuAt .wait1 0#32).miiReq.getLsbD 0 = false)
    ∧ ((miuAt .wait2 1#32).miu.state = .wait2 ∧ (miuAt .wait2 1#32).miiReq.getLsbD 0 = true
      ∧ (miuAt .wait2 1#32).par.waitBudget = none)
    ∧ ((miuAt .wait2 0#32).miu.state = .wait2 ∧ (miuAt .wait2 0#32).miiReq.getLsbD 0 = false)
    ∧ (miuAt .req 0#32).miu.state = .req ∧ (miuAt .data 1#32).miu.state = .data
    ∧ (miuAt .read 0#32).miu.state = .read ∧ (miuAt .done 0#32).miu.state = .done := by decide

/-- BoundedWaitTimesOut: the poll before the last and the last of a budget of 3. -/
theorem witness_BoundedWaitTimesOut :
    ((waiting .wait1 1).par.waitBudget = some 3 ∧ (waiting .wait1 1).miu.state = .wait1
      ∧ (waiting .wait1 1).miiReq.getLsbD 0 = true ∧ (waiting .wait1 1).miu.polls + 1 < 3)
    ∧ ((waiting .wait2 2).par.waitBudget = some 3 ∧ (waiting .wait2 2).miu.state = .wait2
      ∧ (waiting .wait2 2).miiReq.getLsbD 0 = true ∧ 3 ≤ (waiting .wait2 2).miu.polls + 1) := by decide

/-- MiiReadPerformsTheAccess, MiiWritePerformsTheAccess: no hold in force, and with the race in `M_DATA`. -/
theorem witness_engine_free :
    (State.reset.par.phyResponds.getLsbD (31#5 : BitVec 5).toNat = true ∧ State.reset.miu.state ≠ .data)
    ∧ (let s := { miuAt .data 0x803#32 with par := { Params.scenario with miiDataRace := true } }
       s.par.phyResponds.getLsbD (1#5 : BitVec 5).toNat = true ∧ s.par.miiDataRace = true) := by decide

/-- EngineIsHeld: idle, an absent transceiver, the hold. -/
theorem witness_EngineIsHeld : (miuAt .wait2 0x880#32).miiReq.getLsbD 0 = false
    ∧ (let s := { miuAt .wait2 0x2841#32 with par := { Params.scenario with phyResponds := 0xFFFFFFDF#32 } }
       s.par.phyResponds.getLsbD (s.miiReq.toNat / 2048 % 32) = false)
    ∧ ((miuAt .data 0x803#32).par.miiDataRace = false ∧ (miuAt .data 0x803#32).miu.state = .data) := by decide

/-- SendIsAccepted, ReceiveIsAccepted, PollRxReportsOwnership. -/
theorem witness_units_idle : ready.busy .txu = false ∧ ready.busy .rxu = false ∧ ready.admitsWord ready.rxCur = true := by decide

/-- CheckCountsFragments: 4501, 0, 1 and 4500 bytes on 3 buffers of 1500. -/
theorem witness_CheckCountsFragments :
    (let s := txWith .check fun r => { r with len := 4501#32 }
     s.par.wf = true ∧ s.txu.state = .check ∧ s.par.nTx * s.par.capTx < s.txu.len.toNat)
    ∧ (let s := txWith .check fun r => { r with len := 0#32 }
       s.par.wf = true ∧ s.txu.state = .check ∧ s.txu.len = 0#32)
    ∧ (let s := txWith .check fun r => { r with len := 1#32 }
       s.par.wf = true ∧ s.txu.state = .check ∧ s.txu.len ≠ 0#32 ∧ s.txu.len.toNat ≤ s.par.nTx * s.par.capTx)
    ∧ (let s := txWith .check fun r => { r with len := 4500#32 }
       s.par.wf = true ∧ s.txu.state = .check ∧ s.txu.len ≠ 0#32 ∧ s.txu.len.toNat ≤ s.par.nTx * s.par.capTx) := by decide

/-- TransmitWaitsForOwnership: an unaligned cursor, a hardware-owned descriptor, a software-owned one. ClearKeepsOnlyOwn. -/
theorem witness_TransmitWaitsForOwnership :
    (let s := { txAt .waitOwn with txCur := 0x20000012#32 }
     s.txu.state = .waitOwn ∧ s.txCur.toNat % 4 ≠ 0)
    ∧ (let s := put (txAt .waitOwn) 0x20000010#32 0x80000000#32
       s.txu.state = .waitOwn ∧ s.admitsWord s.txCur = true ∧ (s.mem.wordAt s.txCur.toNat).getLsbD 31 = true)
    ∧ (let s := txAt .waitOwn
       s.txu.state = .waitOwn ∧ s.admitsWord s.txCur = true ∧ (s.mem.wordAt s.txCur.toNat).getLsbD 31 = false)
    ∧ (let s := txAt .clear
       s.mem.wf = true ∧ s.txu.state = .clear ∧ s.admitsWord s.txCur = true) := by decide

/-- CopyStartProgramsTheEngine: an idle engine with bytes left, a busy one, and nothing left. -/
theorem witness_CopyStartProgramsTheEngine :
    (let s := txWith .copyStart fun r => { r with total := 1500#32 }
     s.par.wf = true ∧ s.txu.state = .copyStart ∧ s.admitsWord (s.txCur + 8#32) = true ∧ s.copy.busy = false ∧ s.txu.rem ≠ 0#32)
    ∧ (let s := { txAt .copyStart with copy := { ready.copy with busy := true } }
       s.par.wf = true ∧ s.txu.state = .copyStart ∧ s.admitsWord (s.txCur + 8#32) = true ∧ s.copy.busy = true)
    ∧ (let s := txWith .copyStart fun r => { r with rem := 0#32 }
       s.par.wf = true ∧ s.txu.state = .copyStart ∧ s.admitsWord (s.txCur + 8#32) = true ∧ s.txu.rem = 0#32) := by decide

/-- AcquireConsumesOneCompletion. -/
theorem witness_AcquireConsumesOneCompletion :
    ((txAt .acquire).txu.state = .acquire ∧ (txAt .acquire).locked = true)
    ∧ (let s := { txAt .acquire with locked := false }
       s.txu.state = .acquire ∧ s.locked = false) := by decide

/-- RecordAdvancesTheCursor: the largest fragment length a descriptor can record. -/
theorem witness_RecordAdvancesTheCursor :
    let s := txWith .record fun r => { r with frag := 65535 }
    s.mem.wf = true ∧ s.txu.state = .record ∧ s.txu.frag ≤ 65535 ∧ s.admitsWord (s.txCur + 4#32) = true
      ∧ s.admitsWord (s.txCur + 12#32) = true := by decide

/-- FlagsMarkFirstAndLastSegment. -/
theorem witness_FlagsMarkFirstAndLastSegment : (txAt .flagFirst).mem.wf = true ∧ (txAt .flagFirst).txu.state = .flagFirst
    ∧ (txAt .flagFirst).admitsWord (txAt .flagFirst).txu.first = true ∧ (txAt .flagLast).txu.state = .flagLast
    ∧ (txAt .flagLast).admitsWord (txAt .flagLast).txu.last = true
    ∧ (txAt .flagLast).admitsWord ((txAt .flagLast).txu.last + 4#32) = true := by decide

/-- GrantHandsOverOneDescriptor: the last descriptor to grant, none left, and the report. -/
theorem witness_GrantHandsOverOneDescriptor :
    (let s := txAt .grant
     s.mem.wf = true ∧ s.txu.state = .grant ∧ s.txu.j < s.txu.cnt ∧ s.admitsWord s.txu.g = true
       ∧ s.admitsWord (s.txu.g + 12#32) = true)
    ∧ (let s := txWith .grant fun r => { r with j := 1 }
       s.mem.wf = true ∧ s.txu.state = .grant ∧ s.txu.cnt ≤ s.txu.j)
    ∧ ((txAt .done).mem.wf = true ∧ (txAt .done).txu.state = .done) := by decide

/-- HardwareOwnedMeansNoData, in both modes. -/
theorem witness_HardwareOwnedMeansNoData :
    (let s := rxAt .scan
     s.rxu.state = .scan ∧ s.admitsWord s.rxu.p = true ∧ (s.mem.wordAt s.rxu.p.toNat).getLsbD 31 = true ∧ s.rxu.blk = false)
    ∧ (let s := rxWith .scan fun r => { r with blk := true }
       s.rxu.state = .scan ∧ s.admitsWord s.rxu.p = true ∧ (s.mem.wordAt s.rxu.p.toNat).getLsbD 31 = true
         ∧ s.rxu.blk = true) := by decide

/-- ScanGathersDescriptors: with `LS`; without, at the last of the ring; without, before it. -/
theorem witness_ScanGathersDescriptors :
    (let s := put (rxAt .scan) 0x20004000#32 0x300D8000#32
     s.rxu.state = .scan ∧ s.admitsWord s.rxu.p = true ∧ (s.mem.wordAt s.rxu.p.toNat).getLsbD 31 = false
       ∧ (s.mem.wordAt s.rxu.p.toNat).getLsbD 29 = true)
    ∧ (let s := put (rxWith .scan fun r => { r with k := 2 }) 0x20004000#32 0#32
       s.rxu.state = .scan ∧ s.admitsWord s.rxu.p = true ∧ (s.mem.wordAt s.rxu.p.toNat).getLsbD 31 = false
         ∧ (s.mem.wordAt s.rxu.p.toNat).getLsbD 29 = false ∧ s.rxu.k + 1 = s.par.nRx)
    ∧ (let s := put (rxWith .scan fun r => { r with k := 1 }) 0x20004000#32 0#32
       s.rxu.state = .scan ∧ s.admitsWord s.rxu.p = true ∧ (s.mem.wordAt s.rxu.p.toNat).getLsbD 31 = false
         ∧ (s.mem.wordAt s.rxu.p.toNat).getLsbD 29 = false ∧ s.rxu.k + 1 ≠ s.par.nRx
         ∧ s.admitsWord (s.rxu.p + 12#32) = true) := by decide

/-- LengthDecidesTheResult: `FL` 3, then 1501 and 1500 in one buffer of 1500; no destination; a limit one short and exact. -/
theorem witness_LengthDecidesTheResult :
    (let s := rxWith .len fun r => { r with fl := 3#14, k := 1 }
     s.rxu.state = .len ∧ s.rxu.fl.toNat < 4)
    ∧ (let s := rxWith .len fun r => { r with fl := 1501#14, k := 1 }
       s.rxu.state = .len ∧ s.rxu.k * s.par.capRx < s.rxu.fl.toNat)
    ∧ (let s := rxWith .len fun r => { r with fl := 4#14, k := 1, dst := 0#32 }
       s.rxu.state = .len ∧ ¬(s.rxu.fl.toNat < 4 ∨ s.rxu.k * s.par.capRx < s.rxu.fl.toNat) ∧ s.rxu.dst = 0#32)
    ∧ (let s := rxWith .len fun r => { r with fl := 1500#14, k := 1, max := 1495#32 }
       s.rxu.state = .len ∧ ¬(s.rxu.fl.toNat < 4 ∨ s.rxu.k * s.par.capRx < s.rxu.fl.toNat) ∧ s.rxu.dst ≠ 0#32
         ∧ s.rxu.max.toNat < s.rxu.fl.toNat - 4)
    ∧ (let s := rxWith .len fun r => { r with fl := 1500#14, k := 1, max := 1496#32 }
       s.rxu.state = .len ∧ ¬(s.rxu.fl.toNat < 4 ∨ s.rxu.k * s.par.capRx < s.rxu.fl.toNat) ∧ s.rxu.dst ≠ 0#32
         ∧ s.rxu.fl.toNat - 4 ≤ s.rxu.max.toNat) := by decide

/-- CopyMovesFrameBytes: 50 bytes of one descriptor, a limit that ends at 2^32 and one past it, and all done. -/
theorem witness_CopyMovesFrameBytes :
    (let s := rxWith .copy fun r => { r with k := 1, n := 50 }
     s.mem.wf = true ∧ s.rxu.state = .copy ∧ s.rxu.j < s.rxu.k ∧ min s.par.capRx (s.rxu.n - s.rxu.copied) = 50
       ∧ s.admitsWord (s.rxu.q + 8#32) = true ∧ s.admitsWord (s.rxu.q + 12#32) = true
       ∧ s.par.mappedRange s.rxu.dst.toNat s.rxu.max.toNat = true
       ∧ s.mem.wordAt (s.rxu.q + 8#32).toNat = 0x20005000#32 ∧ s.rxu.dst + BitVec.ofNat 32 s.rxu.copied = 0x20020000#32
       ∧ s.par.mappedRange 0x20020000 50 = true ∧ s.par.mappedRange 0x20005000 50 = true
       ∧ 0x20005000 + 50 ≤ 0x20020000 ∧ (s.rxu.q + 12#32).toNat + 4 ≤ 0x20020000)
    ∧ (let s := rxWith .copy fun r => { r with k := 1, n := 50, dst := 0xFFFFFA24#32, max := 1500#32 }
       s.par.mappedRange s.rxu.dst.toNat s.rxu.max.toNat = true
         ∧ s.par.mappedRange (s.rxu.dst + BitVec.ofNat 32 s.rxu.copied).toNat 50 = true)
    ∧ (let s := rxWith .copy fun r => { r with k := 1, n := 50, dst := 0xFFFFFA24#32, max := 1501#32 }
       s.mem.wf = true ∧ s.rxu.state = .copy ∧ s.rxu.j < s.rxu.k ∧ s.par.mappedRange s.rxu.dst.toNat s.rxu.max.toNat = false)
    ∧ (let s := rxWith .copy fun r => { r with k := 1, n := 50, j := 1 }
       s.mem.wf = true ∧ s.rxu.state = .copy ∧ s.rxu.k ≤ s.rxu.j) := by decide

/-- RetireReturnsOneDescriptor: the last to return, none left, and the report. -/
theorem witness_RetireReturnsOneDescriptor :
    (let s := rxWith .retire fun r => { r with k := 1 }
     s.mem.wf = true ∧ s.rxu.state = .retire ∧ s.rxu.j < s.rxu.k ∧ s.admitsWord s.rxCur = true
       ∧ s.admitsWord (s.rxCur + 12#32) = true)
    ∧ (let s := rxWith .retire fun r => { r with k := 1, j := 1 }
       s.mem.wf = true ∧ s.rxu.state = .retire ∧ s.rxu.k ≤ s.rxu.j)
    ∧ ((rxAt .done).mem.wf = true ∧ (rxAt .done).rxu.state = .done) := by decide

/-- CopyStepMovesTheFragment: idle, a payload that passes 2^32, and 100 bytes to move. -/
theorem witness_CopyStepMovesTheFragment : (ready.mem.wf = true ∧ ready.copy.busy = false)
    ∧ ready.par.mappedRange (0xFFFFFA24#32 : Word).toNat (1501#32 : Word).toNat = false
    ∧ (let s := { ready with copy := { ready.copy with
         busy := true, src := 0x20010000#32, dst := 0x20001000#32, len := 100, payload := 0x20010000#32, payloadLen := 100#32 } }
       s.mem.wf = true ∧ s.copy.busy = true ∧ s.par.mappedRange s.copy.payload.toNat s.copy.payloadLen.toNat = true
         ∧ s.par.mappedRange s.copy.dst.toNat s.copy.len = true
         ∧ s.par.mappedRange s.copy.src.toNat s.copy.len = true ∧ s.copy.dst.toNat + s.copy.len ≤ s.copy.src.toNat) := by decide

/-- HandlerClearsTheFlagAndReleases: a completion to release, and one that finds the slot full. -/
theorem witness_HandlerClearsTheFlagAndReleases :
    (let s := { ready with copy := { ready.copy with tc := [true] } }
     s.irqEn = true ∧ s.copy.tc.getD s.par.copyCh false = true ∧ s.locked = true)
    ∧ (let s := { ready with copy := { ready.copy with tc := [true] }, locked := false }
       s.irqEn = true ∧ s.copy.tc.getD s.par.copyCh false = true ∧ s.locked = false) := by decide

/-- A granted descriptor of one byte at MACDMA's position (DmaTransmitsOneDescriptor). -/
def granted : State :=
  { put (put ready 0x20000000#32 0xB0000000#32) 0x20000004#32 0xE0000001#32 with dma := { ready.dma with txRun := true } }

/-- DmaTransmitsOneDescriptor. -/
theorem witness_DmaTransmitsOneDescriptor : granted.mem.wf = true ∧ granted.macEn = true ∧ granted.txBaseSet = true
    ∧ granted.dma.txRun = true ∧ granted.loadWord granted.dma.txPtr = some 0xB0000000#32
    ∧ granted.loadWord (granted.dma.txPtr + 4#32) = some 0xE0000001#32
    ∧ granted.loadWord (granted.dma.txPtr + 8#32) = some 0x20001000#32
    ∧ granted.loadWord (granted.dma.txPtr + 12#32) = some 0x20000010#32 ∧ granted.loadBytes 0x20001000#32 1 = some [0#8]
    ∧ (0xB0000000#32 : Word).getLsbD 31 = true ∧ (0xE0000001#32 : Word).getLsbD 30 = true
    ∧ 1 ≤ (0xE0000001#32 : Word).toNat % 65536 ∧ (0xE0000001#32 : Word).toNat % 65536 ≤ granted.par.capTx
    ∧ (0xB0000000#32 : Word).getLsbD 28 ≠ granted.dma.txOpen := by decide

/-- DmaSuspendsOnSoftwareOwned: software-owned, hardware-owned, suspended, no base written. -/
theorem witness_DmaSuspendsOnSoftwareOwned :
    (let s := { ready with dma := { ready.dma with txRun := true } }
     s.loadWord s.dma.txPtr = some 0#32 ∧ s.macEn = true ∧ s.txBaseSet = true ∧ s.dma.txRun = true)
    ∧ (granted.loadWord granted.dma.txPtr = some 0xB0000000#32 ∧ granted.macEn = true ∧ granted.txBaseSet = true
      ∧ granted.dma.txRun = true)
    ∧ (ready.loadWord ready.dma.txPtr = some 0#32 ∧ ready.dma.txRun = false) ∧ State.reset.txBaseSet = false := by decide

/-- A frame of 1501 bytes arriving (DmaFillsOneDescriptor): the first descriptor takes 1500. -/
def arriving : State :=
  { ready with dma := { ready.dma with rxOpen := true, rxLen := 1501, rxPend := List.replicate 1501 7#8 } }

/-- DmaFillsOneDescriptor. -/
theorem witness_DmaFillsOneDescriptor : arriving.mem.wf = true ∧ arriving.macEn = true ∧ arriving.rxBaseSet = true
    ∧ arriving.dma.rxOpen = true ∧ arriving.loadWord arriving.dma.rxPtr = some 0x80000000#32
    ∧ arriving.loadWord (arriving.dma.rxPtr + 4#32) = some 0x400005DC#32
    ∧ arriving.loadWord (arriving.dma.rxPtr + 8#32) = some 0x20005000#32
    ∧ arriving.loadWord (arriving.dma.rxPtr + 12#32) = some 0x20004010#32
    ∧ min arriving.dma.rxPend.length ((0x400005DC#32 : Word).toNat % 65536) = 1500
    ∧ 0x20004000 + 16 ≤ 0x20005000 := by decide

/-- The same: the 1500 bytes of the buffer are mapped. -/
theorem witness_DmaFillsOneDescriptor_mapped : arriving.par.mappedRange 0x20005000 1500 = true := by decide

/-- DmaFillsOneDescriptor, the frame waits: a software-owned descriptor, no frame, receive not enabled. -/
theorem witness_DmaFillsOneDescriptor_waits :
    (let s := put arriving 0x20004000#32 0x300D8000#32
     s.macEn = true ∧ s.rxBaseSet = true ∧ s.dma.rxOpen = true ∧ (s.mem.wordAt s.dma.rxPtr.toNat).getLsbD 31 = false)
    ∧ ready.dma.rxOpen = false ∧ State.reset.macEn = false ∧ State.reset.rxBaseSet = false := by decide

/-- FrameArrivalIsBounded: none arriving, one arriving, no base written. -/
theorem witness_FrameArrivalIsBounded : ready.par.wf = true ∧ ready.macEn = true ∧ ready.rxBaseSet = true
    ∧ ready.dma.rxOpen = false ∧ arriving.dma.rxOpen = true ∧ (State.reset.par.wf = true ∧ State.reset.rxBaseSet = false) := by decide

/-- A transfer of slot 1's fragment in flight. -/
def inFlight : State :=
  { txAt .acquire with copy := { ready.copy with busy := true, payload := 0x20010000#32, payloadLen := 100#32 } }

/-- EveryStepKeepsOneTransferInFlight, EveryStepKeepsFragmentation, EveryStepKeepsReassembly: the middle of a transfer. -/
theorem witness_invariants : ready.par.wf = true ∧ SyncInv inFlight ∧ TxuInv inFlight
    ∧ RxuInv (rxWith .copy fun r => { r with k := 1, n := 50, res := 50#32 }) := by
  refine ⟨by decide, by unfold SyncInv; decide, ?_, ?_⟩
  · show inFlight.txu.staging inFlight.par ∧ _
    unfold Txu.staging
    decide
  · show _ ∧ _
    decide

/-- Both rings of three are closed and bound, whatever else changes but memory. -/
theorem ringMem_closed : RingClosed ringMem 0x20000000#32 3 := by unfold RingClosed; decide

/-- EveryStepKeepsFragmentation, the slots: the same state, its ring closed, the next turn TXU's. -/
theorem witness_EveryStepKeepsFragmentation :
    inFlight.txu.state ≠ .idle ∧ inFlight.txu.state ≠ .check ∧ RingClosed inFlight.mem inFlight.par.txdBase inFlight.par.nTx
      ∧ inFlight.txWalk ∧ { inFlight with sched := [.txu] }.nextTurn ≠ .reset :=
  ⟨by decide, by decide, ringMem_closed, ⟨1, by decide, by decide, by decide⟩, by decide⟩

/-- EveryStepKeepsMemoryCanonical, OnlyResetForgets: a state whose next turn is listed and is no reset. -/
theorem witness_step : ready.mem.wf = true ∧ { ready with sched := [.host] }.nextTurn ≠ .reset := by decide

/-- SequencersWriteOnlyTheirWords: an address none of the words named holds. -/
theorem witness_SequencersWriteOnlyTheirWords :
    ∀ d, d = (txAt .clear).txCur ∨ d = (txAt .clear).txu.first ∨ d = (txAt .clear).txu.last ∨ d = (txAt .clear).txu.g →
      (0x20000018 < d.toNat ∨ d.toNat + 4 ≤ 0x20000018)
        ∧ (0x20000018 < (d + 4#32).toNat ∨ (d + 4#32).toNat + 4 ≤ 0x20000018) := by
  rintro d (rfl | rfl | rfl | rfl) <;> decide

/-- TXU about to grant slot 1, a frame arriving, RXU copying the frame of slot 0 off the rings. -/
def bothRunning : State :=
  { put (txWith .grant fun r => { r with i := 1, rem := 0#32, total := 100#32 }) 0x20004000#32 0x300D8000#32 with
    txCur := 0x20000020#32, dma := arriving.dma, rxu := (rxWith .copy fun r => { r with k := 1, n := 50, res := 50#32 }).rxu }

/-- SequencersWriteOnlyTheirWords, the rings whole. -/
theorem witness_SequencersWriteOnlyTheirWords_rings : bothRunning.par.wf = true ∧ bothRunning.mem.wf = true ∧ RingsSound bothRunning ∧ TxuInv bothRunning
    ∧ RxuInv bothRunning ∧ bothRunning.destinationApart ∧ bothRunning.hwOwned (bothRunning.par.rxd 1) = true := by
  refine ⟨by decide, by decide, ⟨?_, ⟨1, ⟨by decide, by decide, by decide⟩, by decide⟩, ⟨0, ⟨by decide, by decide⟩, by decide⟩, ?_, ?_,
    fun _ => ⟨0, by decide⟩, fun _ => ⟨0, by decide⟩, fun h => absurd h (by decide), by decide⟩, ?_, ?_, fun _ x hx => ?_, by decide⟩
  · unfold RingInv RingClosed BuffersBound
    decide
  · intro f k _ _ _
    have h : ∀ i, i < 3 → bothRunning.hwOwned (bothRunning.par.txd i) = false := by decide
    exact h _ (Nat.mod_lt _ (by decide))
  · intro c k hc hk
    have h : ∀ i, i < 3 → bothRunning.rxCur = bothRunning.par.rxd i → i = 0 := by decide
    have h0 := h c hc.1 hc.2
    have hk0 : k = 0 := Nat.lt_one_iff.1 hk
    subst h0 hk0
    decide
  · show bothRunning.txu.staged bothRunning.par ∧ _
    unfold Txu.staged
    decide
  · show _ ∧ _
    decide
  · have hl : 0x20020000 ≤ x := by
      simp only [inRange, Bool.and_eq_true, decide_eq_true_eq] at hx
      exact hx.1
    have h1 : ¬x < 0x20000000 + 16 * 3 := by omega
    have h2 : ¬x < 0x20004000 + 16 * 3 := by omega
    exact ⟨by rw [inRange]; exact Bool.and_eq_false_iff.2 (.inr (decide_eq_false h1)),
      by rw [inRange]; exact Bool.and_eq_false_iff.2 (.inr (decide_eq_false h2))⟩

/-- OneFragmentSendCompletes: 100 bytes at slot 0. -/
theorem witness_OneFragmentSendCompletes : ready.par.wf = true ∧ ready.mem.wf = true ∧ SyncInv ready ∧ ready.irqEn = true
    ∧ ready.busy .txu = false ∧ 1 ≤ (100#32 : Word).toNat ∧ (100#32 : Word).toNat ≤ ready.par.capTx
    ∧ ready.txCur.toNat + 16 ≤ 4294967296 ∧ ready.admitsWord ready.txCur = true ∧ ready.admitsWord (ready.txCur + 4#32) = true
    ∧ ready.loadWord (ready.txCur + 8#32) = some 0x20001000#32 ∧ ready.loadWord (ready.txCur + 12#32) = some 0x20000010#32
    ∧ (ready.mem.wordAt ready.txCur.toNat).getLsbD 31 = false
    ∧ (ready.mem.wordAt (ready.txCur + 4#32).toNat).toNat / 65536 % 32768 = 0x6000
    ∧ ready.par.mappedRange 0x20010000 100 = true ∧ ready.par.mappedRange 0x20001000 100 = true
    ∧ 0x20001000 + 100 ≤ 0x20010000 ∧ 0x20000000 + 16 ≤ 0x20001000 := by
  unfold SyncInv
  decide

/-- OneDescriptorReceiveCompletes: 50 bytes at slot 0, the limit exact. -/
theorem witness_OneDescriptorReceiveCompletes :
    let s := put ready 0x20004000#32 0x300D8000#32
    s.par.wf = true ∧ s.mem.wf = true ∧ s.busy .rxu = false ∧ s.rxCur.toNat + 16 ≤ 4294967296 ∧ s.admitsWord s.rxCur = true
    ∧ s.loadWord (s.rxCur + 8#32) = some 0x20005000#32 ∧ s.loadWord (s.rxCur + 12#32) = some 0x20004010#32
    ∧ (s.mem.wordAt s.rxCur.toNat).getLsbD 31 = false ∧ (s.mem.wordAt s.rxCur.toNat).getLsbD 29 = true
    ∧ (s.mem.wordAt s.rxCur.toNat).toNat / 16384 % 16384 = 50 + 4 ∧ 50 + 4 ≤ s.par.capRx ∧ (0x20020000#32 : Word) ≠ 0#32
    ∧ 50 ≤ (50#32 : Word).toNat ∧ s.par.mappedRange 0x20020000 50 = true ∧ s.par.mappedRange 0x20005000 50 = true
    ∧ 0x20005000 + 50 ≤ 0x20020000 ∧ 0x20004000 + 16 ≤ 0x20020000 := by decide

/-- InitializeReachesReady. -/
theorem witness_InitializeReachesReady : Params.scenario.wf = true ∧ Memory.wf [(0x100, 5#8)] = true
    ∧ Params.scenario.mappedRange (0x20030000#32 : Word).toNat 6 = true := by decide

/-! BoundedWaitTimesOut: a run without end that is fair to the sequencers, though the turns after the first are free. -/

/-- Nothing is in progress and nobody but the reset and the PHY's engine can change anything. -/
structure Quiet (s : State) : Prop where
  txu : s.txu.state = .idle
  rxu : s.rxu.state = .idle
  miu : s.miu.state = .idle
  queue : s.hostQ = []
  mac : s.macEn = false
  irq : s.irqEn = false
  copy : s.copy.busy = false

theorem Quiet.busy {s : State} (h : Quiet s) (u : DrcUnit) : s.busy u = false := by
  cases u <;> simp [State.busy, h.txu, h.rxu, h.miu]

/-- Whoever's turn it is, a quiet state stays quiet. -/
theorem Quiet.turn {s : State} (h : Quiet s) (u : Turn) : ∃ t, turnStep u s = .next t ∧ Quiet t := by
  cases u
  case host => exact ⟨s, by simp [turnStep, hostStep, h.queue], h⟩
  case txu => exact ⟨s, by simp [turnStep, txuStep, h.txu], h⟩
  case rxu => exact ⟨s, by simp [turnStep, rxuStep, h.rxu], h⟩
  case miu => exact ⟨s, by simp [turnStep, miuStep, h.miu], h⟩
  case irq => exact ⟨s, by simp [turnStep, irqStep, h.irq], h⟩
  case copy => exact ⟨s, by simp [turnStep, copyStep, h.copy], h⟩
  case dmaTransmit => exact ⟨s, by simp [turnStep, dmaTransmit, State.txEnabled, h.mac], h⟩
  case dmaSuspend => exact ⟨s, by simp [turnStep, dmaSuspend, State.txEnabled, h.mac], h⟩
  case dmaFill => exact ⟨s, by simp [turnStep, dmaFill, State.rxEnabled, h.mac], h⟩
  case dmaArrive => exact ⟨s, by simp [turnStep, dmaArrive, State.rxEnabled, h.mac], h⟩
  case reset => exact ⟨s.hardReset, rfl, rfl, rfl, rfl, h.queue, rfl, rfl, rfl⟩
  case miieng =>
    simp only [turnStep, miiengStep, decode, decodeMii]
    split
    · rename_i i hi
      split at hi
      · split at hi <;> cases hi <;> simp only [exec, execMiiRead, execMiiWrite] <;> split <;>
          exact ⟨_, rfl, h.txu, h.rxu, h.miu, h.queue, h.mac, h.irq, h.copy⟩
      · cases hi
    · exact ⟨s, rfl, h⟩

theorem Quiet.step {s : State} (h : Quiet s) : ∃ t, step s = .next t ∧ Quiet t :=
  Quiet.turn (s := s.takeTurn)
    (by simp only [State.takeTurn]; split <;> exact ⟨h.txu, h.rxu, h.miu, h.queue, h.mac, h.irq, h.copy⟩) s.nextTurn

/-- A run: MIU reports a PHY command in its first step. -/
def lastReport : Nat → State
  | 0 => { waiting .done 0 with sched := [.miu] }
  | n + 1 => match step (lastReport n) with
    | .next t => t
    | .fault _ => lastReport n
    | .refused _ => lastReport n

theorem lastReport_succ {n : Nat} {t : State} (h : step (lastReport n) = .next t) : lastReport (n + 1) = t := by
  simp only [lastReport, h]

theorem lastReport_quiet (n : Nat) : Quiet (lastReport (n + 1)) := by
  induction n with
  | zero => exact ⟨rfl, rfl, rfl, rfl, rfl, rfl, rfl⟩
  | succ n ih =>
    obtain ⟨t, h, q⟩ := ih.step
    rw [lastReport_succ h]
    exact q

/-- BoundedWaitTimesOut: the run above meets the premises. -/
theorem witness_BoundedWaitTimesOut_run : IsRun lastReport ∧ SequencersFair lastReport
    ∧ (lastReport 0).par.waitBudget = some 3 ∧ (lastReport 0).miu.state ≠ .stuck ∧ (lastReport 0).busy .miu = true := by
  refine ⟨fun n => ?_, fun n u hb => ?_, rfl, by decide, by decide⟩
  · cases n with
    | zero => rfl
    | succ n =>
      obtain ⟨t, h, -⟩ := (lastReport_quiet n).step
      rw [lastReport_succ h, h]
  · cases n with
    | zero => cases u <;> first | exact ⟨0, le_refl 0, .inl rfl⟩ | exact absurd hb (by decide)
    | succ n => rw [(lastReport_quiet n).busy u] at hb; cases hb

/-- UnitsChangeOnlyTheirRegisters, DmaKeepsToItsOwn: turns that go on. -/
theorem witness_turns_go_on : (look (turnStep .txu (txAt .clear)) fun t => t.txu.state) = some .copyStart
    ∧ (look (turnStep .rxu (rxAt .scan)) fun t => t.rxCode) = some .noData
    ∧ (look (turnStep .miu (miuAt .wait1 0#32)) fun t => t.miu.state) = some .req
    ∧ (look (turnStep .miieng (miuAt .wait2 0x803#32)) fun t => t.miiReq) = some 0x802#32
    ∧ (look (turnStep .dmaSuspend { ready with dma := { ready.dma with txRun := true } }) fun t => t.dma.txRun)
      = some false := by decide

end Sys2Proof.Tests
end

section
/-! PROOFS. What no step but a reset forgets (R7, R26, R46, R276, R290): the relation `Remembers` between a state and a later one, kept by
every shared operation, every meaning and every turn. -/

namespace Sys2Proof.Machine
open Sys2Proof

/-- `t` remembers what `s` holds for good: the parameters and the configuration, `SYNC_FAULT` once set, each base register once written,
and the history so far. -/
structure Remembers (s t : State) : Prop where
  par : t.par = s.par
  syncFault : s.syncFault = true → t.syncFault = true
  txBase : s.txBaseSet = true → t.txBaseSet = true ∧ t.txBase = s.txBase
  rxBase : s.rxBaseSet = true → t.rxBaseSet = true ∧ t.rxBase = s.rxBase
  events : s.events <+: t.events

/-- The fields `Remembers` speaks of. -/
def State.lasting (s : State) : Params × Bool × Bool × Word × Bool × Word × List Event :=
  (s.par, s.syncFault, s.txBaseSet, s.txBase, s.rxBaseSet, s.rxBase, s.events)

/-! The relation. -/

theorem Remembers.of_lasting {s t : State} (h : t.lasting = s.lasting) : Remembers s t := by
  simp only [State.lasting, Prod.mk.injEq] at h
  obtain ⟨hpar, hsync, htxSet, htx, hrxSet, hrx, hev⟩ := h
  exact ⟨hpar, fun h => hsync ▸ h, fun h => ⟨htxSet ▸ h, htx⟩, fun h => ⟨hrxSet ▸ h, hrx⟩, by rw [hev]⟩

theorem Remembers.refl (s : State) : Remembers s s := .of_lasting rfl

theorem Remembers.trans {s t u : State} (h : Remembers s t) (h' : Remembers t u) : Remembers s u where
  par := h'.par.trans h.par
  syncFault hs := h'.syncFault (h.syncFault hs)
  txBase hs := have ⟨ht, e⟩ := h.txBase hs; have ⟨hu, e'⟩ := h'.txBase ht; ⟨hu, e'.trans e⟩
  rxBase hs := have ⟨ht, e⟩ := h.rxBase hs; have ⟨hu, e'⟩ := h'.rxBase ht; ⟨hu, e'.trans e⟩
  events := h.events.trans h'.events

/-- A step may begin with changes elsewhere. -/
theorem Remembers.congr_left {s t u : State} (h : Remembers t u) (e : t.lasting = s.lasting) : Remembers s u :=
  (Remembers.of_lasting e).trans h

/-- A step may end with changes elsewhere. -/
theorem Remembers.congr_right {s t u : State} (h : Remembers s t) (e : u.lasting = t.lasting) : Remembers s u :=
  h.trans (.of_lasting e)

theorem Remembers.of_withMem {s t : State} (h : t = s.withMem t.mem) : Remembers s t := by
  rw [h]
  exact .of_lasting rfl

/-- An agent that is not enabled changes nothing, so only its enabled step is in question. -/
theorem Remembers.of_enabledOr {s t : State} {o : Option State} (ho : ∀ u, o = some u → Remembers s u)
    (h : enabledOr s o = .next t) : Remembers s t := by
  obtain h | ⟨-, rfl⟩ := enabledOr_next h
  · exact ho t h
  · exact .refl _

/-! The shared operations. -/

theorem appendEvents_remembers (s : State) (l : List Event) : Remembers s { s with events := s.events ++ l } :=
  ⟨rfl, id, fun h => ⟨h, rfl⟩, fun h => ⟨h, rfl⟩, List.prefix_append _ _⟩

theorem State.emit_remembers (s : State) (e : Event) : Remembers s (s.emit e) := appendEvents_remembers s [e]

theorem State.storeWord_remembers {s t : State} {a v : Word} (h : s.storeWord a v = some t) : Remembers s t :=
  .of_withMem (State.storeWord_some h).2.1

theorem State.storeBytes_remembers {s t : State} {a : Word} {bs : List Byte} (h : s.storeBytes a bs = some t) :
    Remembers s t :=
  .of_withMem (State.storeBytes_some h).2.1

theorem State.updateW0_remembers {s t : State} {d : Word} {f : Word → Word} (h : s.updateW0 d f = some t) :
    Remembers s t :=
  .of_withMem (State.updateW0_some h).2.1

theorem State.updateW1_remembers {s t : State} {d : Word} {f : Word → Word} (h : s.updateW1 d f = some t) :
    Remembers s t :=
  .of_withMem (State.updateW1_some h).2.1

theorem State.memCopy_remembers {s t : State} {dst src : Word} {n : Nat} (h : s.memCopy dst src n = some t) :
    Remembers s t := by
  rw [(State.memCopy_some h).2.1]
  exact .of_lasting rfl

theorem State.initDescs_remembers {s t : State} {dbase bbase : Word} {n cap k : Nat} {w0 w1 : Word}
    (h : s.initDescs dbase bbase n cap w0 w1 k = some t) : Remembers s t :=
  .of_withMem (State.initDescs_mem h).1

/-- A release sets `SYNC_FAULT` or emits; it never clears the fault (R229). -/
theorem State.release_remembers (s : State) : Remembers s s.release := by
  unfold State.release
  split
  · exact (State.emit_remembers _ _).congr_left rfl
  · exact ⟨rfl, fun _ => rfl, fun h => ⟨h, rfl⟩, fun h => ⟨h, rfl⟩, List.prefix_rfl⟩

theorem State.acquire_remembers (s : State) : Remembers s s.acquire :=
  (State.emit_remembers _ _).congr_left rfl

theorem State.pollTx_remembers (s : State) : Remembers s s.pollTx :=
  (State.emit_remembers _ _).congr_left rfl

theorem State.phyRead_remembers (s : State) (pa ri : BitVec 5) (v : BitVec 16) : Remembers s (s.phyRead pa ri v) :=
  (State.emit_remembers _ _).congr_left rfl

theorem State.phyWrite_remembers (s : State) (pa ri : BitVec 5) : Remembers s (s.phyWrite pa ri) :=
  (State.emit_remembers _ _).congr_left rfl

theorem State.pollFailed_remembers (s : State) : Remembers s s.pollFailed := by
  unfold State.pollFailed
  split
  · exact .refl s
  · dsimp only
    split <;> exact .of_lasting rfl

/-! TXU. -/

theorem txuCheck_remembers (s : State) : Remembers s (txuCheck s) := by
  unfold txuCheck
  dsimp only
  split
  · exact .of_lasting rfl
  · split <;> exact .of_lasting rfl

theorem txuWaitOwn_remembers {s t : State} (h : txuWaitOwn s = some t) : Remembers s t := by
  simp only [txuWaitOwn, Option.bind_eq_some_iff] at h
  obtain ⟨w, -, h⟩ := h
  split at h <;> cases h <;> exact .of_lasting rfl

theorem txuClear_remembers {s t : State} (h : txuClear s = some t) : Remembers s t := by
  simp only [txuClear, Option.bind_eq_some_iff, Option.some.injEq] at h
  obtain ⟨u, hu, rfl⟩ := h
  exact (State.updateW0_remembers hu).congr_right rfl

theorem txuCopyStart_remembers {s t : State} (h : txuCopyStart s = .next t) : Remembers s t := by
  unfold txuCopyStart at h
  split at h
  · cases h
    exact .refl s
  · split at h
    · cases h
    · cases h
      exact (State.emit_remembers _ _).congr_left rfl

theorem txuAcquire_remembers (s : State) : Remembers s (txuAcquire s) := by
  unfold txuAcquire
  split
  · exact .refl s
  · exact s.acquire_remembers.congr_right rfl

theorem txuRecord_remembers {s t : State} (h : txuRecord s = some t) : Remembers s t := by
  simp only [txuRecord, Option.bind_eq_some_iff, Option.some.injEq] at h
  obtain ⟨u, hu, next, -, rfl⟩ := h
  exact (State.updateW1_remembers hu).congr_right rfl

theorem txuFlagFirst_remembers {s t : State} (h : txuFlagFirst s = some t) : Remembers s t := by
  simp only [txuFlagFirst, Option.bind_eq_some_iff, Option.some.injEq] at h
  obtain ⟨u, hu, rfl⟩ := h
  exact (State.updateW0_remembers hu).congr_right rfl

theorem txuFlagLast_remembers {s t : State} (h : txuFlagLast s = some t) : Remembers s t := by
  simp only [txuFlagLast, Option.bind_eq_some_iff, Option.some.injEq] at h
  obtain ⟨u, hu, v, hv, rfl⟩ := h
  exact (State.updateW0_remembers hu).trans ((State.updateW1_remembers hv).congr_right rfl)

theorem txuGrant_remembers {s t : State} (h : txuGrant s = some t) : Remembers s t := by
  unfold txuGrant at h
  split at h
  · simp only [Option.bind_eq_some_iff, Option.some.injEq] at h
    obtain ⟨u, hu, next, -, rfl⟩ := h
    exact (State.updateW0_remembers hu).congr_right rfl
  · cases h
    exact .of_lasting rfl

theorem txuPoll_remembers (s : State) : Remembers s (txuPoll s) := s.pollTx_remembers.congr_right rfl

theorem txuStep_remembers {s t : State} (h : txuStep s = .next t) : Remembers s t := by
  unfold txuStep at h
  cases hs : s.txu.state <;> simp only [hs] at h
  case idle => cases h; exact .refl s
  case check => cases h; exact txuCheck_remembers s
  case waitOwn => exact .of_enabledOr (fun _ => txuWaitOwn_remembers) h
  case clear => exact .of_enabledOr (fun _ => txuClear_remembers) h
  case copyStart => exact txuCopyStart_remembers h
  case acquire => cases h; exact txuAcquire_remembers s
  case record => exact .of_enabledOr (fun _ => txuRecord_remembers) h
  case flagFirst => exact .of_enabledOr (fun _ => txuFlagFirst_remembers) h
  case flagLast => exact .of_enabledOr (fun _ => txuFlagLast_remembers) h
  case grant => exact .of_enabledOr (fun _ => txuGrant_remembers) h
  case poll => cases h; exact txuPoll_remembers s
  case done => cases h; exact .of_lasting rfl
  case stuck => cases h; exact .refl s

/-! RXU. -/

theorem rxuScan_remembers {s t : State} (h : rxuScan s = some t) : Remembers s t := by
  simp only [rxuScan, Option.bind_eq_some_iff] at h
  obtain ⟨w, -, h⟩ := h
  split at h
  · split at h <;> cases h <;> exact .of_lasting rfl
  · split at h
    · cases h; exact .of_lasting rfl
    · split at h
      · cases h; exact .of_lasting rfl
      · simp only [Option.bind_eq_some_iff, Option.some.injEq] at h
        obtain ⟨next, -, rfl⟩ := h
        exact .of_lasting rfl

theorem rxuLen_remembers (s : State) : Remembers s (rxuLen s) := by
  unfold rxuLen
  dsimp only
  split
  · exact .of_lasting rfl
  · split
    · exact .of_lasting rfl
    · split <;> exact .of_lasting rfl

theorem rxuCopy_remembers {s t : State} (h : rxuCopy s = some t) : Remembers s t := by
  unfold rxuCopy at h
  split at h
  · split at h
    · simp only [Option.bind_eq_some_iff, Option.some.injEq] at h
      obtain ⟨buf, -, u, hu, next, -, rfl⟩ := h
      exact (State.memCopy_remembers hu).congr_right rfl
    · cases h
  · cases h
    exact .of_lasting rfl

theorem rxuRetire_remembers {s t : State} (h : rxuRetire s = some t) : Remembers s t := by
  unfold rxuRetire at h
  split at h
  · simp only [Option.bind_eq_some_iff, Option.some.injEq] at h
    obtain ⟨u, hu, next, -, rfl⟩ := h
    exact (State.updateW0_remembers hu).congr_right rfl
  · cases h
    exact .of_lasting rfl

theorem rxuStep_remembers {s t : State} (h : rxuStep s = .next t) : Remembers s t := by
  unfold rxuStep at h
  cases hs : s.rxu.state <;> simp only [hs] at h
  case idle => cases h; exact .refl s
  case scan => exact .of_enabledOr (fun _ => rxuScan_remembers) h
  case len => cases h; exact rxuLen_remembers s
  case copy => exact .of_enabledOr (fun _ => rxuCopy_remembers) h
  case retire => exact .of_enabledOr (fun _ => rxuRetire_remembers) h
  case done => cases h; exact .of_lasting rfl
  case stuck => cases h; exact .refl s

/-! MIU. -/

theorem miuWait1_remembers (s : State) : Remembers s (miuWait1 s) := by
  unfold miuWait1
  split
  · exact s.pollFailed_remembers
  · exact .of_lasting rfl

theorem miuWait2_remembers (s : State) : Remembers s (miuWait2 s) := by
  unfold miuWait2
  split
  · exact s.pollFailed_remembers
  · exact .of_lasting rfl

theorem miuStep_remembers {s t : State} (h : miuStep s = .next t) : Remembers s t := by
  unfold miuStep at h
  cases hs : s.miu.state <;> simp only [hs] at h
  case idle => cases h; exact .refl s
  case wait1 => cases h; exact miuWait1_remembers s
  case req => cases h; exact .of_lasting rfl
  case data => cases h; exact .of_lasting rfl
  case wait2 => cases h; exact miuWait2_remembers s
  case read => cases h; exact .of_lasting rfl
  case done => cases h; exact .of_lasting rfl
  case stuck => cases h; exact .refl s

/-! The instructions. -/

theorem execInitRxRing_remembers {s t : State} (h : execInitRxRing s = .next t) : Remembers s t := by
  unfold execInitRxRing at h
  split at h
  · cases h; exact .of_lasting rfl
  · split at h
    · cases h; exact .of_lasting rfl
    · split at h
      · rename_i u hu
        cases h
        have hinit : Remembers s u := (State.initDescs_remembers hu).congr_left rfl
        exact hinit.congr_right rfl
      · cases h; exact .of_lasting rfl

theorem execInitTxRing_remembers {s t : State} (h : execInitTxRing s = .next t) : Remembers s t := by
  unfold execInitTxRing at h
  split at h
  · cases h; exact .of_lasting rfl
  · split at h
    · cases h; exact .of_lasting rfl
    · split at h
      · rename_i u hu
        cases h
        have hinit : Remembers s u := (State.initDescs_remembers hu).congr_left rfl
        exact hinit.congr_right rfl
      · cases h; exact .of_lasting rfl

theorem execSend_remembers {s t : State} (h : execSend s = .next t) : Remembers s t := by
  unfold execSend at h
  split at h <;> cases h <;> exact .of_lasting rfl

theorem execReceive_remembers {block : Bool} {s t : State} (h : execReceive block s = .next t) : Remembers s t := by
  unfold execReceive at h
  split at h <;> cases h <;> exact .of_lasting rfl

theorem execPollRx_remembers {s t : State} (h : execPollRx s = .next t) : Remembers s t := by
  unfold execPollRx at h
  split at h
  · cases h; exact .of_lasting rfl
  · split at h <;> cases h <;> exact .of_lasting rfl

theorem execReadPhy_remembers {s t : State} (h : execReadPhy s = .next t) : Remembers s t := by
  unfold execReadPhy at h
  split at h <;> cases h <;> exact .of_lasting rfl

theorem execWritePhy_remembers {s t : State} (h : execWritePhy s = .next t) : Remembers s t := by
  unfold execWritePhy at h
  split at h <;> cases h <;> exact .of_lasting rfl

theorem execGetMac_remembers {s t : State} (h : execGetMac s = .next t) : Remembers s t := by
  unfold execGetMac at h
  split at h
  · cases h; exact .of_lasting rfl
  · split at h
    · rename_i u hu
      cases h
      have hstore : Remembers s u := (State.storeBytes_remembers hu).congr_left rfl
      exact hstore.congr_right rfl
    · cases h; exact .of_lasting rfl

theorem execSetMac_remembers {s t : State} (h : execSetMac s = .next t) : Remembers s t := by
  unfold execSetMac at h
  split at h
  · cases h; exact .of_lasting rfl
  · split at h <;> cases h <;> exact .of_lasting rfl

theorem execMiiRead_remembers {pa ri : BitVec 5} {s t : State} (h : execMiiRead pa ri s = .next t) : Remembers s t := by
  refine .of_enabledOr (fun u hu => ?_) h
  split at hu
  · cases hu
    exact (s.phyRead_remembers pa ri _).congr_right rfl
  · cases hu

theorem execMiiWrite_remembers {pa ri : BitVec 5} {s t : State} (h : execMiiWrite pa ri s = .next t) : Remembers s t := by
  refine .of_enabledOr (fun u hu => ?_) h
  split at hu
  · cases hu
    exact s.phyWrite_remembers pa ri
  · cases hu

theorem exec_remembers {i : Instr} {s t : State} (h : exec i s = .next t) : Remembers s t := by
  cases i with
  | initRxRing => exact execInitRxRing_remembers h
  | initTxRing => exact execInitTxRing_remembers h
  | send => exact execSend_remembers h
  | receive block => exact execReceive_remembers h
  | pollRx => exact execPollRx_remembers h
  | readPhy => exact execReadPhy_remembers h
  | writePhy => exact execWritePhy_remembers h
  | getMac => exact execGetMac_remembers h
  | setMac => exact execSetMac_remembers h
  | miiRead pa ri => exact execMiiRead_remembers h
  | miiWrite pa ri => exact execMiiWrite_remembers h

/-! HOST and MIIENG. -/

/-- The first write programs the register, a later one is ignored (R26). -/
theorem State.writeTxBase_remembers (s : State) (v : Word) : Remembers s (s.writeTxBase v) := by
  unfold State.writeTxBase
  split
  · exact .refl s
  · exact ⟨rfl, id, fun h => absurd h ‹_›, fun h => ⟨h, rfl⟩, List.prefix_rfl⟩

/-- The first write programs the register, a later one is ignored (R26). -/
theorem State.writeRxBase_remembers (s : State) (v : Word) : Remembers s (s.writeRxBase v) := by
  unfold State.writeRxBase
  split
  · exact .refl s
  · exact ⟨rfl, id, fun h => ⟨h, rfl⟩, fun h => absurd h ‹_›, List.prefix_rfl⟩

theorem State.ifMiuIdle_remembers {s t : State} (h : Remembers s t) : Remembers s (s.ifMiuIdle t) := by
  unfold State.ifMiuIdle
  split
  · exact .refl s
  · exact h

theorem State.writeReg_remembers (s : State) (r : Reg) (v : Word) : Remembers s (s.writeReg r v) := by
  cases r with
  | txBase => exact s.writeTxBase_remembers v
  | rxBase => exact s.writeRxBase_remembers v
  | txPoll => exact s.pollTx_remembers
  | miiReq | miiData | macHi | macLo => exact State.ifMiuIdle_remembers (.of_lasting rfl)
  | _ => exact .of_lasting rfl

theorem hostWrite_remembers {off width : Nat} {v : Word} {s t : State} (h : hostWrite off width v s = .next t) :
    Remembers s t := by
  unfold hostWrite at h
  split at h
  · unfold hostCommand at h
    split at h
    · exact exec_remembers h
    · cases h; exact .of_lasting rfl
  · cases h; exact s.writeReg_remembers _ v
  · cases h; exact .refl s

theorem hostRead_remembers (off width : Nat) (s : State) : Remembers s (hostRead off width s) := by
  unfold hostRead
  split <;> exact .of_lasting rfl

theorem hostStep_remembers {s t : State} (h : hostStep s = .next t) : Remembers s t := by
  unfold hostStep at h
  split at h
  · cases h; exact .refl s
  · exact (hostWrite_remembers h).congr_left rfl
  · cases h; exact (hostRead_remembers _ _ _).congr_left rfl
  · refine .of_enabledOr (fun u hu => ?_) h
    exact (State.storeBytes_remembers hu).congr_left rfl
  · split at h <;> cases h <;> exact .of_lasting rfl
  · split at h <;> cases h <;> exact .of_lasting rfl

theorem miiengStep_remembers {s t : State} (h : miiengStep s = .next t) : Remembers s t := by
  unfold miiengStep at h
  split at h
  · exact exec_remembers h
  · cases h; exact .refl s

/-! IRQ, COPY and MACDMA. -/

theorem irqStep_remembers {s t : State} (h : irqStep s = some t) : Remembers s t := by
  unfold irqStep at h
  split at h
  · cases h
    exact (State.release_remembers _).congr_left rfl
  · cases h

theorem copyStep_remembers {s t : State} (h : copyStep s = some t) : Remembers s t := by
  unfold copyStep at h
  split at h
  · simp only [Option.bind_eq_some_iff, Option.some.injEq] at h
    obtain ⟨u, hu, rfl⟩ := h
    exact (State.memCopy_remembers hu).trans ((State.emit_remembers _ _).congr_left rfl)
  · cases h

theorem dmaTransmit_remembers {err : BitVec 14} {s t : State} (h : dmaTransmit err s = some t) : Remembers s t := by
  simp only [dmaTransmit, Option.ite_none_right_eq_some, Option.bind_eq_some_iff, Option.some.injEq] at h
  obtain ⟨-, w0, -, -, w1, -, -, buf, -, bytes, -, u, hu, next, -, rfl⟩ := h
  rw [(State.storeWord_some hu).2.1]
  exact (appendEvents_remembers s _).congr_right rfl

theorem dmaSuspend_remembers {s t : State} (h : dmaSuspend s = some t) : Remembers s t := by
  simp only [dmaSuspend, Option.ite_none_right_eq_some, Option.ite_none_left_eq_some, Option.bind_eq_some_iff,
    Option.some.injEq] at h
  obtain ⟨-, w0, -, -, rfl⟩ := h
  exact .of_lasting rfl

theorem State.fillDesc_remembers {s t : State} {buf : Word} {c : Nat} {last : Bool} {field err : BitVec 14}
    (h : s.fillDesc buf c last field err = some t) : Remembers s t := by
  simp only [State.fillDesc, Option.bind_eq_some_iff, Option.some.injEq] at h
  obtain ⟨u, hu, v, hv, next, -, rfl⟩ := h
  have huv := (State.storeBytes_remembers hu).trans (State.storeWord_remembers hv)
  exact huv.trans ((State.emit_remembers _ _).congr_left rfl)

theorem dmaFill_remembers {fl err : BitVec 14} {s t : State} (h : dmaFill fl err s = some t) : Remembers s t := by
  simp only [dmaFill, Option.ite_none_right_eq_some, Option.bind_eq_some_iff] at h
  obtain ⟨-, w0, -, -, w1, -, -, buf, -, h⟩ := h
  exact State.fillDesc_remembers h

theorem dmaArrive_remembers {frame : List Byte} {s t : State} (h : dmaArrive frame s = some t) : Remembers s t := by
  simp only [dmaArrive, Option.ite_none_right_eq_some, Option.some.injEq] at h
  obtain ⟨-, rfl⟩ := h
  exact .of_lasting rfl

/-! One turn, one step. -/

/-- The count of free values taken does not matter to what is remembered. -/
theorem Remembers.of_enabledOr_spend {s t : State} {o : Option State} {n : Nat} (ho : ∀ u, o = some u → Remembers s u)
    (h : enabledOr s (o.map fun u => u.spend n) = .next t) : Remembers s t := by
  refine .of_enabledOr (fun u hu => ?_) h
  obtain ⟨v, hv, rfl⟩ := Option.map_eq_some_iff.mp hu
  exact (ho v hv).congr_right rfl

theorem turnStep_remembers {u : Turn} {s t : State} (hu : u ≠ .reset) (h : turnStep u s = .next t) : Remembers s t := by
  cases u with
  | host => exact hostStep_remembers h
  | txu => exact txuStep_remembers h
  | rxu => exact rxuStep_remembers h
  | miu => exact miuStep_remembers h
  | irq => exact .of_enabledOr (fun _ => irqStep_remembers) h
  | copy => exact .of_enabledOr (fun _ => copyStep_remembers) h
  | dmaTransmit => exact .of_enabledOr_spend (fun _ => dmaTransmit_remembers) h
  | dmaSuspend => exact .of_enabledOr (fun _ => dmaSuspend_remembers) h
  | dmaFill => exact .of_enabledOr_spend (fun _ => dmaFill_remembers) h
  | dmaArrive => exact .of_enabledOr_spend (fun _ => dmaArrive_remembers) h
  | miieng => exact miiengStep_remembers h
  | reset => exact absurd rfl hu

/-- No turn writes the parameters, the reset's included (R7). -/
theorem turnStep_par {u : Turn} {s t : State} (h : turnStep u s = .next t) : t.par = s.par := by
  by_cases hu : u = .reset
  · subst hu
    cases h
    rfl
  · exact (turnStep_remembers hu h).par

theorem State.takeTurn_lasting (s : State) : s.takeTurn.lasting = s.lasting := by
  unfold State.takeTurn
  split <;> rfl

theorem step_remembers {s t : State} (hr : s.nextTurn ≠ .reset) (h : step s = .next t) : Remembers s t :=
  (turnStep_remembers hr h).congr_left s.takeTurn_lasting

theorem step_par {s t : State} (h : step s = .next t) : t.par = s.par :=
  (turnStep_par h).trans (Remembers.of_lasting s.takeTurn_lasting).par

/-- Settles O54: every turn but a reset's remembers, and a reset keeps the parameters too. -/
theorem onlyResetForgets : Obligations.OnlyResetForgets := by
  intro s t h
  refine ⟨step_par h, fun hr => ?_⟩
  obtain ⟨-, hsync, htx, hrx, l, hl⟩ := step_remembers hr h
  exact ⟨hsync, htx, hrx, l, hl.symm⟩

end Sys2Proof.Machine
end

section
/-! PROOFS. HOST's accesses to the register window (R21 to R33) and hardware reset (R47, R290). -/

namespace Sys2Proof.Machine
open Sys2Proof

/-! One access of HOST's. -/

theorem turnStep_host_regWrite (s : State) (q : List HostOp) (off width : Nat) (v : Word) :
    turnStep .host { s with hostQ := .regWrite off width v :: q } = hostWrite off width v { s with hostQ := q } := rfl

theorem turnStep_host_regRead (s : State) (q : List HostOp) (off width : Nat) :
    turnStep .host { s with hostQ := .regRead off width :: q } = .next (hostRead off width { s with hostQ := q }) := rfl

theorem hostWrite_reg {off width : Nat} {r : Reg} (h : regAt off width = some r) (hr : r ≠ .cmd) (v : Word) (s : State) :
    hostWrite off width v s = .next (s.writeReg r v) := by
  rw [hostWrite, h]
  cases r with
  | cmd => exact absurd rfl hr
  | _ => rfl

theorem hostWrite_none {off width : Nat} (h : regAt off width = none) (v : Word) (s : State) :
    hostWrite off width v s = .next s := by rw [hostWrite, h]

theorem hostRead_reg {off width : Nat} {r : Reg} (h : regAt off width = some r) (s : State) :
    hostRead off width s = { s with hostRd := s.readReg r } := by rw [hostRead, h]

theorem hostRead_none {off width : Nat} (h : regAt off width = none) (s : State) :
    hostRead off width s = { s with hostRd := s.fresh 0, draws := s.draws + 1 } := by rw [hostRead, h]; rfl

/-- A read of a listed register returns what the register reads as and does no more. -/
theorem turnStep_host_reads {off : Nat} {r : Reg} (h : regAt off 4 = some r) {s : State} {q : List HostOp} {w : Word}
    (hw : s.readReg r = w) :
    turnStep .host { s with hostQ := .regRead off 4 :: q } = .next { s with hostQ := q, hostRd := w } := by
  rw [turnStep_host_regRead, hostRead_reg h, ← hw]
  cases r <;> rfl

/-- The table of R33 lists neither another width nor these offsets. -/
theorem regAt_unlisted {off width : Nat}
    (h : width ≠ 4 ∨ off % 4 ≠ 0 ∨ off = 0x1C ∨ (0x38 ≤ off ∧ off ≤ 0x3F) ∨ (0x54 ≤ off ∧ off ≤ 0x5F)
      ∨ (0x64 ≤ off ∧ off ≤ 0x7F) ∨ 0x90 ≤ off) : regAt off width = none := by
  by_contra hc
  unfold regAt at hc
  split at hc
  · split at hc
    case h_24 => exact hc rfl
    all_goals omega
  · exact hc rfl

theorem State.ifMiuIdle_busy {s : State} (t : State) (h : s.miu.state ≠ .idle) : s.ifMiuIdle t = s := by
  simp [State.ifMiuIdle, State.busy, h]

theorem State.ifMiuIdle_idle {s : State} (t : State) (h : s.miu.state = .idle) : s.ifMiuIdle t = t := by
  simp [State.ifMiuIdle, State.busy, h]

/-! The bits of `STATUS` and `CTRL`. -/

theorem State.busy_txu (s : State) : s.busy .txu = decide (s.txu.state ≠ .idle) := by
  rw [Bool.eq_iff_iff]
  simp [State.busy]

theorem State.busy_rxu (s : State) : s.busy .rxu = decide (s.rxu.state ≠ .idle) := by
  rw [Bool.eq_iff_iff]
  simp [State.busy]

theorem State.busy_miu (s : State) : s.busy .miu = decide (s.miu.state ≠ .idle) := by
  rw [Bool.eq_iff_iff]
  simp [State.busy]

theorem getLsbD_bitAt (b : Bool) {i : Nat} (hi : i < 32) (j : Nat) : (bitAt b i).getLsbD j = (b && decide (j = i)) := by
  cases b
  · simp [bitAt]
  · rw [bitAt, if_pos rfl, ← BitVec.twoPow_eq, BitVec.getLsbD_twoPow, decide_eq_true hi, Bool.true_and, Bool.true_and]
    exact decide_eq_decide.2 eq_comm

theorem State.getLsbD_statusWord (s : State) (j : Nat) :
    s.statusWord.getLsbD j = ((s.busy .txu && decide (j = 0)) || (s.busy .rxu && decide (j = 1))
      || (s.busy .miu && decide (j = 2)) || (s.syncFault && decide (j = 8))) := by
  rw [State.statusWord, BitVec.getLsbD_or, BitVec.getLsbD_or, BitVec.getLsbD_or, getLsbD_bitAt _ (by decide),
    getLsbD_bitAt _ (by decide), getLsbD_bitAt _ (by decide), getLsbD_bitAt _ (by decide)]

theorem State.getLsbD_ctrlWord (s : State) (j : Nat) :
    s.ctrlWord.getLsbD j = ((s.macEn && decide (j = 0)) || (s.irqEn && decide (j = 1))) := by
  rw [State.ctrlWord, BitVec.getLsbD_or, getLsbD_bitAt _ (by decide), getLsbD_bitAt _ (by decide)]

/-! Commands. -/

/-- Settles O3: the turn listed is HOST's, its access reaches `CMD`, and the word decodes. -/
theorem stepRunsDecodedCommand : Obligations.StepRunsDecodedCommand := by
  intro s ts q w i hi
  show hostCommand w { s with sched := ts, hostQ := q } = _
  rw [hostCommand, hi]

/-! Reads and writes of single registers. -/

/-- Settles O9, by the cases of the write-once flag. -/
theorem baseRegistersAreWrittenOnce : Obligations.BaseRegistersAreWrittenOnce := by
  intro s q v
  refine ⟨?_, ?_, rfl, rfl⟩
  · rw [turnStep_host_regWrite, hostWrite_reg (r := .txBase) rfl (by decide), State.writeReg, State.writeTxBase]
    cases s.txBaseSet <;> rfl
  · rw [turnStep_host_regWrite, hostWrite_reg (r := .rxBase) rfl (by decide), State.writeReg, State.writeRxBase]
    cases s.rxBaseSet <;> rfl

/-- Settles O10, bit by bit from the four bits `STATUS` is made of. -/
theorem statusShowsBusyUnits : Obligations.StatusShowsBusyUnits := by
  intro s q v
  refine ⟨⟨s.statusWord, rfl, ?_⟩, ?_⟩
  · simp only [State.getLsbD_statusWord, State.busy_txu, State.busy_rxu, State.busy_miu]
    refine ⟨by simp, by simp, by simp, by simp, fun b h0 h1 h2 h8 => ?_⟩
    simp [h0, h1, h2, h8]
  · rintro off (rfl | rfl | rfl | rfl | rfl | rfl | rfl | rfl | rfl | rfl | rfl) <;> rfl

/-- With `MAC_EN = 0` no step of MACDMA is enabled (R242). -/
theorem macDma_disabled {s : State} (h : s.macEn = false) : s.txEnabled = false ∧ s.rxEnabled = false := by
  simp [State.txEnabled, State.rxEnabled, h]

/-- Settles O11: with either bit 0 the guard of each step it gates is false. -/
theorem ctrlGatesMacDmaAndIrq : Obligations.CtrlGatesMacDmaAndIrq := by
  refine ⟨fun s q v => rfl, fun s h => ?_, fun s h => ?_, fun s q => ⟨s.ctrlWord, rfl, ?_⟩⟩
  · obtain ⟨htx, hrx⟩ := macDma_disabled h
    simp [turnStep, dmaTransmit, dmaSuspend, dmaFill, dmaArrive, htx, hrx]
  · simp [turnStep, irqStep, h]
  · simp only [State.getLsbD_ctrlWord]
    refine ⟨by simp, by simp, fun b hb => ?_⟩
    simp [show b ≠ 0 by omega, show b ≠ 1 by omega]

/-- Settles O12: a read sets what HOST read last and, where no register is reached, takes a free value. -/
theorem registerReadsHaveNoSideEffect : Obligations.RegisterReadsHaveNoSideEffect := by
  refine ⟨fun s q off width => ?_, fun s q => ?_, fun s q v => ⟨rfl, rfl, rfl⟩⟩
  · rw [turnStep_host_regRead]
    cases h : regAt off width with
    | some r => exact ⟨_, s.draws, by rw [hostRead_reg h]⟩
    | none => exact ⟨_, s.draws + 1, by rw [hostRead_none h]⟩
  · refine ⟨rfl, rfl, rfl, rfl, turnStep_host_reads (r := .cmdFault) rfl ?_, rfl, turnStep_host_reads (r := .txCode) rfl ?_, rfl,
      turnStep_host_reads (r := .rxCode) rfl ?_, rfl, turnStep_host_reads (r := .miiCode) rfl ?_, rfl, rfl,
      turnStep_host_reads (r := .sync) rfl ?_, rfl, turnStep_host_reads (r := .miiData) rfl ?_, rfl, rfl⟩
    · show BitVec.ofNat 32 s.cmdFault.number = _
      cases s.cmdFault <;> rfl
    · show BitVec.ofNat 32 s.txCode.number = _
      cases s.txCode <;> rfl
    · show BitVec.ofNat 32 s.rxCode.number = _
      cases s.rxCode <;> rfl
    · show BitVec.ofNat 32 s.miiCode.number = _
      cases s.miiCode <;> rfl
    · show bitAt s.locked 0 = _
      cases s.locked <;> rfl
    · show s.miiData.setWidth 32 = _
      exact BitVec.setWidth_eq_append (by decide)

/-- Settles O13: such an access reaches no register. -/
theorem unlistedAccessIsRefused : Obligations.UnlistedAccessIsRefused := by
  intro s q off width v h
  have hnone := regAt_unlisted h
  rw [turnStep_host_regWrite, turnStep_host_regRead, hostWrite_none hnone, hostRead_none hnone]
  exact ⟨rfl, _, rfl⟩

theorem getLsbD_hostRequestWord (old v : Word) (b : Nat) :
    (hostRequestWord old v).getLsbD b = (v.getLsbD b || (old.getLsbD b && decide (b = 0))) := by
  simp only [hostRequestWord, BitVec.getLsbD_or, BitVec.getLsbD_and, BitVec.getLsbD_one]
  simp

/-- Settles O14: MIU's four registers are written only while it is idle. -/
theorem miuRegistersAreProtectedWhileBusy : Obligations.MiuRegistersAreProtectedWhileBusy := by
  intro s q v
  refine ⟨fun hbusy off hoff => ?_, fun hidle => ?_⟩
  · have hb : { s with hostQ := q }.miu.state ≠ .idle := hbusy
    obtain rfl | rfl | rfl | rfl := hoff <;> exact congrArg _ (State.ifMiuIdle_busy _ hb)
  · have hi : { s with hostQ := q }.miu.state = .idle := hidle
    refine ⟨⟨hostRequestWord s.miiReq v, congrArg _ (State.ifMiuIdle_idle _ hi), ?_, fun h0 b hb => ?_⟩,
      congrArg _ ((State.ifMiuIdle_idle _ hi).trans ?_), congrArg _ (State.ifMiuIdle_idle _ hi),
      congrArg _ (State.ifMiuIdle_idle _ hi)⟩
    · rw [getLsbD_hostRequestWord, decide_eq_true rfl, Bool.and_true]
    · simp [getLsbD_hostRequestWord, show b ≠ 0 by omega]
    · show { s with hostQ := q, miiData := v.extractLsb' 0 16 } = _
      rw [BitVec.setWidth_eq_extractLsb' (by decide)]

/-- Settles O15: each of the two sets `tx_run` and records the event. -/
theorem pollSignalRestartsTransmit : Obligations.PollSignalRestartsTransmit := by
  refine fun s q v => ⟨rfl, rfl, fun hpoll => ?_⟩
  show txuStep s = _
  rw [txuStep, hpoll]
  rfl

/-! Reset. -/

/-- Every value R47 states, whatever the parameters and the memory. -/
theorem isReset_resetOf (p : Params) (m : Memory) : IsReset (State.resetOf p m) := by
  have hstatus : bitAt false 0 ||| bitAt false 1 ||| bitAt false 2 ||| bitAt false 8 = 0#32 := by decide
  have hctrl : bitAt false 0 ||| bitAt false 1 = 0#32 := by decide
  refine ⟨rfl, rfl, rfl, hstatus, rfl, hctrl, rfl, rfl, rfl, rfl, rfl, rfl, rfl, rfl, rfl, rfl, rfl, rfl, rfl, rfl, rfl, rfl, rfl, rfl,
    rfl, rfl, rfl, fun c => ?_, rfl, rfl, rfl, rfl, rfl, rfl, rfl⟩
  show (List.replicate p.nCh false).getD c false = false
  rw [List.getD_eq_getElem?_getD, List.getElem?_getD_replicate_default_eq]

/-- What is HOST's and the model's own is no part of what R47 resets. -/
theorem isReset_hardReset (s : State) : IsReset s.hardReset := isReset_resetOf s.par s.mem

/-- Settles O48: right after reset no guard of an agent's step is met. -/
theorem resetHoldsTheTable : Obligations.ResetHoldsTheTable := by
  refine ⟨isReset_resetOf _ _, fun u hu => ?_, fun s => ?_⟩
  · cases u with
    | reset => exact absurd rfl hu
    | _ => rfl
  · exact ⟨s.hardReset, rfl, isReset_hardReset s, rfl, rfl, rfl, rfl, List.length_replicate⟩

/-- Settles O49: at reset the units are idle and the synchronizer holds no completion. -/
theorem resetMeetsEveryInvariant : Obligations.ResetMeetsEveryInvariant := by
  refine ⟨by decide, rfl, ⟨by decide, rfl, ?_⟩, trivial, trivial⟩
  exact ⟨rfl, rfl, rfl⟩

end Sys2Proof.Machine
end

section
/-! PROOFS. What one turn of TXU, RXU, MIU and MIIENG can do: the moves of the two sequencers with their guards, and which registers a turn
leaves as they were (R25, R141, R170, R273). -/

namespace Sys2Proof.Machine
open Sys2Proof

/-! Shared operations: only memory, or memory and the count of free values, changes. -/

theorem State.updateW0_withMem {s t : State} {d : Word} {f : Word → Word} (h : s.updateW0 d f = some t) :
    ∃ m, t = s.withMem m := ⟨_, (State.updateW0_some h).2.1⟩

theorem State.updateW1_withMem {s t : State} {d : Word} {f : Word → Word} (h : s.updateW1 d f = some t) :
    ∃ m, t = s.withMem m := ⟨_, (State.updateW1_some h).2.1⟩

theorem State.memCopy_withMem {s t : State} {dst src : Word} {n : Nat} (h : s.memCopy dst src n = some t) :
    ∃ m k, t = (s.withMem m).spend k := ⟨_, _, (State.memCopy_some h).2.1⟩

/-! TXU. -/

/-- The moves of TXU (R161 to R171): what a turn of TXU that goes on makes of the state, with what it found. -/
inductive TxuMove (s : State) : State → Prop
  /-- Nothing to do, or to be waited for. -/
  | rest : TxuMove s s
  /-- `T_CHECK`: too many fragments. -/
  | tooLong (hs : s.txu.state = .check) (hcnt : s.par.nTx < ceilDiv s.txu.len.toNat s.par.capTx) :
      TxuMove s (s.finishTx (minus 1) .fragOverflow)
  /-- `T_CHECK`: an empty frame. -/
  | empty (hs : s.txu.state = .check) (hcnt : ceilDiv s.txu.len.toNat s.par.capTx = 0) : TxuMove s (s.finishTx 0#32 .ok)
  /-- `T_CHECK`: staging begins. -/
  | begin (hs : s.txu.state = .check) (hcnt : ceilDiv s.txu.len.toNat s.par.capTx ≤ s.par.nTx) :
      TxuMove s { s with txu := { s.txu with cnt := ceilDiv s.txu.len.toNat s.par.capTx, i := 0, rem := s.txu.len, total := 0#32,
                                             first := s.txCur, state := .waitOwn } }
  /-- `T_WAIT_OWN`: the descriptor is software-owned. -/
  | found (w : Word) (hs : s.txu.state = .waitOwn) (hw : s.loadW0 s.txCur = some w) (ho : own w = false) :
      TxuMove s (s.gotoTx .clear)
  /-- `T_CLEAR`. -/
  | clear (m : Memory) (hs : s.txu.state = .clear) (hm : s.updateW0 s.txCur clearStatus = some (s.withMem m)) :
      TxuMove s ((s.withMem m).gotoTx .copyStart)
  /-- `T_COPY_START`. -/
  | copyStart (buf : Word) (hs : s.txu.state = .copyStart) (hb : s.loadW2 s.txCur = some buf) (hfree : s.copy.busy = false)
      (hfrag : s.fragLen ≠ 0) :
      TxuMove s ({ s.handPayload with txu := { s.txu with frag := s.fragLen, state := .acquire } }.startCopy s.txu.src buf s.fragLen)
  /-- `T_ACQUIRE`: the copy is complete. -/
  | acquire (hs : s.txu.state = .acquire) (hl : s.locked = false) : TxuMove s (s.acquire.gotoTx .record)
  /-- `T_RECORD`. -/
  | record (m : Memory) (next : Word) (hs : s.txu.state = .record)
      (hm : s.updateW1 s.txCur (fun w => recordLen w s.txu.frag) = some (s.withMem m))
      (hn : (s.withMem m).loadW3 s.txCur = some next) :
      TxuMove s { s.withMem m with
        txCur := next,
        txu := { s.txu with
          last := s.txCur,
          src := s.txu.src + BitVec.ofNat 32 s.txu.frag,
          rem := s.txu.rem - BitVec.ofNat 32 s.txu.frag,
          total := s.txu.total + BitVec.ofNat 32 s.txu.frag,
          i := s.txu.i + 1,
          state := if s.txu.rem - BitVec.ofNat 32 s.txu.frag = 0#32 then .flagFirst else .waitOwn } }
  /-- `T_FLAG_FIRST`. -/
  | flagFirst (m : Memory) (hs : s.txu.state = .flagFirst) (hm : s.updateW0 s.txu.first setSegFirst = some (s.withMem m)) :
      TxuMove s ((s.withMem m).gotoTx .flagLast)
  /-- `T_FLAG_LAST`. -/
  | flagLast (m m' : Memory) (hs : s.txu.state = .flagLast) (hm : s.updateW0 s.txu.last setSegLast = some (s.withMem m))
      (hm' : (s.withMem m).updateW1 s.txu.last setIoc = some (s.withMem m')) :
      TxuMove s { s.withMem m' with txu := { s.txu with g := s.txu.first, j := 0, state := .grant } }
  /-- `T_GRANT`: one descriptor. -/
  | grant (m : Memory) (next : Word) (hs : s.txu.state = .grant) (hj : s.txu.j < s.txu.cnt)
      (hm : s.updateW0 s.txu.g setOwn = some (s.withMem m)) (hn : (s.withMem m).loadW3 s.txu.g = some next) :
      TxuMove s { s.withMem m with txu := { s.txu with g := next, j := s.txu.j + 1 } }
  /-- `T_GRANT`: all are granted. -/
  | granted (hs : s.txu.state = .grant) (hj : ¬s.txu.j < s.txu.cnt) : TxuMove s (s.gotoTx .poll)
  /-- `T_POLL`. -/
  | poll (hs : s.txu.state = .poll) : TxuMove s (s.pollTx.gotoTx .done)
  /-- `T_DONE`. -/
  | done (hs : s.txu.state = .done) : TxuMove s (s.finishTx s.txu.total .ok)

theorem TxuMove.of_enabledOr {s t : State} {o : Option State} (ho : ∀ u, o = some u → TxuMove s u)
    (h : enabledOr s o = .next t) : TxuMove s t := by
  obtain h | ⟨-, rfl⟩ := enabledOr_next h
  · exact ho t h
  · exact .rest

theorem txuCheck_move {s : State} (hs : s.txu.state = .check) : TxuMove s (txuCheck s) := by
  unfold txuCheck
  dsimp only
  split
  · exact .tooLong hs ‹_›
  · split
    · exact .empty hs ‹_›
    · exact .begin hs (Nat.not_lt.1 ‹_›)

theorem txuWaitOwn_move {s t : State} (hs : s.txu.state = .waitOwn) (h : txuWaitOwn s = some t) : TxuMove s t := by
  simp only [txuWaitOwn, Option.bind_eq_some_iff] at h
  obtain ⟨w, hw, h⟩ := h
  split at h <;> cases h
  · exact .rest
  · exact .found w hs hw (Bool.eq_false_of_not_eq_true ‹_›)

theorem txuClear_move {s t : State} (hs : s.txu.state = .clear) (h : txuClear s = some t) : TxuMove s t := by
  simp only [txuClear, Option.bind_eq_some_iff, Option.some.injEq] at h
  obtain ⟨u, hu, rfl⟩ := h
  obtain ⟨m, rfl⟩ := State.updateW0_withMem hu
  exact .clear m hs hu

theorem txuCopyStart_move {s t : State} (hs : s.txu.state = .copyStart) (h : txuCopyStart s = .next t) : TxuMove s t := by
  unfold txuCopyStart at h
  split at h
  · cases h; exact .rest
  · rename_i buf hb
    split at h
    · cases h
    · rename_i hok
      cases h
      rw [Bool.or_eq_true, not_or, decide_eq_true_eq] at hok
      exact .copyStart buf hs hb (Bool.eq_false_of_not_eq_true hok.1) hok.2

theorem txuAcquire_move {s : State} (hs : s.txu.state = .acquire) : TxuMove s (txuAcquire s) := by
  unfold txuAcquire
  split
  · exact .rest
  · exact .acquire hs (Bool.eq_false_of_not_eq_true ‹_›)

theorem txuRecord_move {s t : State} (hs : s.txu.state = .record) (h : txuRecord s = some t) : TxuMove s t := by
  simp only [txuRecord, Option.bind_eq_some_iff, Option.some.injEq] at h
  obtain ⟨u, hu, next, hn, rfl⟩ := h
  obtain ⟨m, rfl⟩ := State.updateW1_withMem hu
  exact .record m next hs hu hn

theorem txuFlagFirst_move {s t : State} (hs : s.txu.state = .flagFirst) (h : txuFlagFirst s = some t) : TxuMove s t := by
  simp only [txuFlagFirst, Option.bind_eq_some_iff, Option.some.injEq] at h
  obtain ⟨u, hu, rfl⟩ := h
  obtain ⟨m, rfl⟩ := State.updateW0_withMem hu
  exact .flagFirst m hs hu

theorem txuFlagLast_move {s t : State} (hs : s.txu.state = .flagLast) (h : txuFlagLast s = some t) : TxuMove s t := by
  simp only [txuFlagLast, Option.bind_eq_some_iff, Option.some.injEq] at h
  obtain ⟨u, hu, v, hv, rfl⟩ := h
  obtain ⟨m, rfl⟩ := State.updateW0_withMem hu
  obtain ⟨m', rfl⟩ := State.updateW1_withMem hv
  exact .flagLast m m' hs hu hv

theorem txuGrant_move {s t : State} (hs : s.txu.state = .grant) (h : txuGrant s = some t) : TxuMove s t := by
  unfold txuGrant at h
  split at h
  · simp only [Option.bind_eq_some_iff, Option.some.injEq] at h
    obtain ⟨u, hu, next, hn, rfl⟩ := h
    obtain ⟨m, rfl⟩ := State.updateW0_withMem hu
    exact .grant m next hs ‹_› hu hn
  · cases h; exact .granted hs ‹_›

/-- Every turn of TXU that goes on is one of its moves. -/
theorem txuStep_move {s t : State} (h : txuStep s = .next t) : TxuMove s t := by
  unfold txuStep at h
  cases hs : s.txu.state <;> simp only [hs] at h
  case idle => cases h; exact .rest
  case check => cases h; exact txuCheck_move hs
  case waitOwn => exact .of_enabledOr (fun _ => txuWaitOwn_move hs) h
  case clear => exact .of_enabledOr (fun _ => txuClear_move hs) h
  case copyStart => exact txuCopyStart_move hs h
  case acquire => cases h; exact txuAcquire_move hs
  case record => exact .of_enabledOr (fun _ => txuRecord_move hs) h
  case flagFirst => exact .of_enabledOr (fun _ => txuFlagFirst_move hs) h
  case flagLast => exact .of_enabledOr (fun _ => txuFlagLast_move hs) h
  case grant => exact .of_enabledOr (fun _ => txuGrant_move hs) h
  case poll => cases h; exact .poll hs
  case done => cases h; exact .done hs
  case stuck => cases h; exact .rest

/-- The registers no move of TXU changes. -/
theorem TxuMove.frame {s t : State} (h : TxuMove s t) : t = { s with
    txu := t.txu, txCur := t.txCur, txResult := t.txResult, txCode := t.txCode, locked := t.locked,
    copy := { t.copy with tc := s.copy.tc }, dma := { s.dma with txRun := t.dma.txRun }, mem := t.mem, events := t.events } := by
  cases h <;> rfl

/-! RXU. -/

/-- The moves of RXU (R191 to R196, R199): what a turn of RXU makes of the state, with what it found. -/
inductive RxuMove (s : State) : State → Prop
  /-- Nothing to do, or to be waited for. -/
  | rest : RxuMove s s
  /-- `R_SCAN`: no whole frame yet, and the command does not wait. -/
  | noData (w : Word) (hs : s.rxu.state = .scan) (hw : s.loadW0 s.rxu.p = some w) (ho : own w = true) (hb : s.rxu.blk = false) :
      RxuMove s (s.finishRx 0#32 .noData)
  /-- `R_SCAN`: the frame's last descriptor. -/
  | lastFound (w : Word) (hs : s.rxu.state = .scan) (hw : s.loadW0 s.rxu.p = some w) (ho : own w = false)
      (hl : segLast w = true) :
      RxuMove s { s with rxu := { s.rxu with k := s.rxu.k + 1, fl := frameLen w, state := .len } }
  /-- `R_SCAN`: the whole ring without a last descriptor. -/
  | noLast (w : Word) (hs : s.rxu.state = .scan) (hw : s.loadW0 s.rxu.p = some w) (ho : own w = false)
      (hk : s.rxu.k + 1 = s.par.nRx) :
      RxuMove s ({ s with rxu := { s.rxu with k := s.rxu.k + 1 } }.retireWith (minus 5) .malformed)
  /-- `R_SCAN`: one more descriptor gathered. -/
  | gather (w next : Word) (hs : s.rxu.state = .scan) (hw : s.loadW0 s.rxu.p = some w) (ho : own w = false)
      (hk : s.rxu.k + 1 ≠ s.par.nRx) (hn : s.loadW3 s.rxu.p = some next) :
      RxuMove s { s with rxu := { s.rxu with k := s.rxu.k + 1, p := next } }
  /-- `R_LEN`: the length cannot be right. -/
  | badLength (hs : s.rxu.state = .len) (hfl : s.rxu.fl.toNat < 4 ∨ s.rxu.k * s.par.capRx < s.rxu.fl.toNat) :
      RxuMove s (s.retireWith (minus 5) .malformed)
  /-- `R_LEN`: no destination. -/
  | discard (hs : s.rxu.state = .len) (hfl : ¬(s.rxu.fl.toNat < 4 ∨ s.rxu.k * s.par.capRx < s.rxu.fl.toNat))
      (hd : s.rxu.dst = 0#32) :
      RxuMove s ({ s with rxu := { s.rxu with n := s.rxu.fl.toNat - 4 } }.retireWith (BitVec.ofNat 32 (s.rxu.fl.toNat - 4)) .ok)
  /-- `R_LEN`: the destination is too short. -/
  | overflow (hs : s.rxu.state = .len) (hfl : ¬(s.rxu.fl.toNat < 4 ∨ s.rxu.k * s.par.capRx < s.rxu.fl.toNat))
      (hd : s.rxu.dst ≠ 0#32) (hmax : s.rxu.max.toNat < s.rxu.fl.toNat - 4) :
      RxuMove s ({ s with rxu := { s.rxu with n := s.rxu.fl.toNat - 4 } }.retireWith (minus 2) .rxOverflow)
  /-- `R_LEN`: copying begins. -/
  | startCopy (hs : s.rxu.state = .len) (hfl : ¬(s.rxu.fl.toNat < 4 ∨ s.rxu.k * s.par.capRx < s.rxu.fl.toNat))
      (hd : s.rxu.dst ≠ 0#32) (hmax : ¬s.rxu.max.toNat < s.rxu.fl.toNat - 4) :
      RxuMove s { s with rxu := { s.rxu with
        n := s.rxu.fl.toNat - 4, res := BitVec.ofNat 32 (s.rxu.fl.toNat - 4), code := .ok, q := s.rxCur, j := 0, copied := 0,
        state := .copy } }
  /-- `R_COPY`: one descriptor's part. -/
  | copyPart (m : Memory) (k : Nat) (buf next : Word) (hs : s.rxu.state = .copy) (hj : s.rxu.j < s.rxu.k)
      (hmap : s.par.mappedRange s.rxu.dst.toNat s.rxu.max.toNat = true) (hb : s.loadW2 s.rxu.q = some buf)
      (hm : s.memCopy (s.rxu.dst + BitVec.ofNat 32 s.rxu.copied) buf s.copyLen = some ((s.withMem m).spend k))
      (hn : ((s.withMem m).spend k).loadW3 s.rxu.q = some next) :
      RxuMove s { (s.withMem m).spend k with
        rxu := { s.rxu with copied := s.rxu.copied + s.copyLen, q := next, j := s.rxu.j + 1 } }
  /-- `R_COPY`: all parts are copied. -/
  | copied (hs : s.rxu.state = .copy) (hj : ¬s.rxu.j < s.rxu.k) :
      RxuMove s { s with rxu := { s.rxu with j := 0, state := .retire } }
  /-- `R_RETIRE`: one descriptor. -/
  | retire (m : Memory) (next : Word) (hs : s.rxu.state = .retire) (hj : s.rxu.j < s.rxu.k)
      (hm : s.updateW0 s.rxCur setOwn = some (s.withMem m)) (hn : (s.withMem m).loadW3 s.rxCur = some next) :
      RxuMove s { s.withMem m with rxCur := next, rxu := { s.rxu with j := s.rxu.j + 1 } }
  /-- `R_RETIRE`: all are returned. -/
  | retired (hs : s.rxu.state = .retire) (hj : ¬s.rxu.j < s.rxu.k) : RxuMove s (s.gotoRx .done)
  /-- `R_DONE`. -/
  | done (hs : s.rxu.state = .done) : RxuMove s (s.finishRx s.rxu.res s.rxu.code)

theorem RxuMove.of_enabledOr {s t : State} {o : Option State} (ho : ∀ u, o = some u → RxuMove s u)
    (h : enabledOr s o = .next t) : RxuMove s t := by
  obtain h | ⟨-, rfl⟩ := enabledOr_next h
  · exact ho t h
  · exact .rest

theorem rxuScan_move {s t : State} (hs : s.rxu.state = .scan) (h : rxuScan s = some t) : RxuMove s t := by
  simp only [rxuScan, Option.bind_eq_some_iff] at h
  obtain ⟨w, hw, h⟩ := h
  split at h
  · split at h <;> cases h
    · exact .rest
    · exact .noData w hs hw ‹_› (Bool.eq_false_of_not_eq_true ‹_›)
  · rename_i ho
    rw [Bool.not_eq_true] at ho
    split at h
    · cases h; exact .lastFound w hs hw ho ‹_›
    · split at h
      · cases h; exact .noLast w hs hw ho ‹_›
      · simp only [Option.bind_eq_some_iff, Option.some.injEq] at h
        obtain ⟨next, hn, rfl⟩ := h
        exact .gather w next hs hw ho ‹_› hn

theorem rxuLen_move {s : State} (hs : s.rxu.state = .len) : RxuMove s (rxuLen s) := by
  unfold rxuLen
  dsimp only
  split
  · exact .badLength hs ‹_›
  · split
    · exact .discard hs ‹_› ‹_›
    · split
      · exact .overflow hs ‹_› ‹_› ‹_›
      · exact .startCopy hs ‹_› ‹_› ‹_›

theorem rxuCopy_move {s t : State} (hs : s.rxu.state = .copy) (h : rxuCopy s = some t) : RxuMove s t := by
  unfold rxuCopy at h
  split at h
  · split at h
    · simp only [Option.bind_eq_some_iff, Option.some.injEq] at h
      obtain ⟨buf, hb, u, hu, next, hn, rfl⟩ := h
      obtain ⟨m, k, rfl⟩ := State.memCopy_withMem hu
      exact .copyPart m k buf next hs ‹_› ‹_› hb hu hn
    · cases h
  · cases h; exact .copied hs ‹_›

theorem rxuRetire_move {s t : State} (hs : s.rxu.state = .retire) (h : rxuRetire s = some t) : RxuMove s t := by
  unfold rxuRetire at h
  split at h
  · simp only [Option.bind_eq_some_iff, Option.some.injEq] at h
    obtain ⟨u, hu, next, hn, rfl⟩ := h
    obtain ⟨m, rfl⟩ := State.updateW0_withMem hu
    exact .retire m next hs ‹_› hu hn
  · cases h; exact .retired hs ‹_›

/-- Every turn of RXU is one of its moves. -/
theorem rxuStep_move {s t : State} (h : rxuStep s = .next t) : RxuMove s t := by
  unfold rxuStep at h
  cases hs : s.rxu.state <;> simp only [hs] at h
  case idle => cases h; exact .rest
  case scan => exact .of_enabledOr (fun _ => rxuScan_move hs) h
  case len => cases h; exact rxuLen_move hs
  case copy => exact .of_enabledOr (fun _ => rxuCopy_move hs) h
  case retire => exact .of_enabledOr (fun _ => rxuRetire_move hs) h
  case done => cases h; exact .done hs
  case stuck => cases h; exact .rest

/-- The registers no move of RXU changes. -/
theorem RxuMove.frame {s t : State} (h : RxuMove s t) : t = { s with
    rxu := t.rxu, rxCur := t.rxCur, rxResult := t.rxResult, rxCode := t.rxCode, mem := t.mem, draws := t.draws } := by
  cases h <;> rfl

/-! MIU and MIIENG. -/

theorem State.pollFailed_frame (s : State) :
    s.pollFailed = { s with miu := s.pollFailed.miu, miiResult := s.pollFailed.miiResult, miiCode := s.pollFailed.miiCode } := by
  unfold State.pollFailed
  split
  · rfl
  · dsimp only
    split <;> rfl

theorem miuWait1_frame (s : State) : miuWait1 s = { s with
    miu := (miuWait1 s).miu, miiResult := (miuWait1 s).miiResult, miiCode := (miuWait1 s).miiCode } := by
  unfold miuWait1
  split
  · exact s.pollFailed_frame
  · rfl

theorem miuWait2_frame (s : State) : miuWait2 s = { s with
    miu := (miuWait2 s).miu, miiResult := (miuWait2 s).miiResult, miiCode := (miuWait2 s).miiCode } := by
  unfold miuWait2
  split
  · exact s.pollFailed_frame
  · rfl

theorem miuStep_frame {s t : State} (h : miuStep s = .next t) : t = { s with
    miu := t.miu, miiReq := t.miiReq, miiData := t.miiData, miiResult := t.miiResult, miiCode := t.miiCode } := by
  unfold miuStep at h
  cases hs : s.miu.state <;> simp only [hs] at h <;> cases h
  case wait1 => rw [miuWait1_frame s]
  case wait2 => rw [miuWait2_frame s]
  all_goals rfl

/-- A request word holds one of the two request-word operations (R90). -/
theorem decode_miireq_ok {w : Word} {i : Instr} (h : decode .miireq w = .ok i) :
    (∃ pa ri, i = .miiRead pa ri) ∨ ∃ pa ri, i = .miiWrite pa ri := by
  simp only [decode, decodeMii] at h
  split at h
  · split at h <;> cases h
    · exact .inr ⟨_, _, rfl⟩
    · exact .inl ⟨_, _, rfl⟩
  · cases h

theorem execMiiRead_frame {pa ri : BitVec 5} {s t : State} (h : execMiiRead pa ri s = .next t) :
    t = { s with miiReq := t.miiReq, miiData := t.miiData, events := t.events, draws := t.draws } := by
  unfold execMiiRead at h
  split at h <;> cases h <;> rfl

theorem execMiiWrite_frame {pa ri : BitVec 5} {s t : State} (h : execMiiWrite pa ri s = .next t) :
    t = { s with miiReq := t.miiReq, miiData := t.miiData, events := t.events, draws := t.draws } := by
  unfold execMiiWrite at h
  split at h <;> cases h <;> rfl

theorem miiengStep_frame {s t : State} (h : miiengStep s = .next t) :
    t = { s with miiReq := t.miiReq, miiData := t.miiData, events := t.events, draws := t.draws } := by
  unfold miiengStep at h
  split at h
  · obtain ⟨pa, ri, rfl⟩ | ⟨pa, ri, rfl⟩ := decode_miireq_ok ‹_›
    · exact execMiiRead_frame h
    · exact execMiiWrite_frame h
  · cases h; rfl

/-- Settles O55, unit by unit from the moves. -/
theorem unitsChangeOnlyTheirRegisters : Obligations.UnitsChangeOnlyTheirRegisters := fun _ _ =>
  ⟨fun h => (txuStep_move h).frame, fun h => (rxuStep_move h).frame, miuStep_frame, miiengStep_frame⟩

end Sys2Proof.Machine
end

section
/-! PROOFS. The descriptor arrays and what a write keeps of them (R5, R6, R38, R39): where slots lie, which links a write keeps, who owns a
slot after it. -/

namespace Sys2Proof
open Sys2Proof.Machine

/-- `x` lies in one of the two descriptor arrays. -/
def Params.inArrays (p : Params) (x : Nat) : Prop :=
  (p.txdBase.toNat ≤ x ∧ x < p.txdBase.toNat + 16 * p.nTx) ∨ (p.rxdBase.toNat ≤ x ∧ x < p.rxdBase.toNat + 16 * p.nRx)

theorem rangesDisjoint_iff (a b : Nat × Nat) : rangesDisjoint a b = true ↔ a.1 + a.2 ≤ b.1 ∨ b.1 + b.2 ≤ a.1 := by
  simp [rangesDisjoint]

/-- The two arrays do not meet (R6). -/
theorem Params.wf_arrays {p : Params} (h : p.wf = true) :
    p.txdBase.toNat + 16 * p.nTx ≤ p.rxdBase.toNat ∨ p.rxdBase.toNat + 16 * p.nRx ≤ p.txdBase.toNat := by
  simp only [Params.wf, pairwiseDisjoint, Params.regions, List.all_cons, Bool.and_eq_true, rangesDisjoint_iff] at h
  obtain ⟨-, ⟨hrxd, -⟩, -⟩ := h
  exact hrxd

/-- The transmit buffers keep off the arrays and do not wrap (R5, R6). -/
theorem Params.wf_txPool {p : Params} (h : p.wf = true) : p.txbBase.toNat + p.nTx * p.capTx ≤ 4294967296
    ∧ ∀ x, p.txbBase.toNat ≤ x → x < p.txbBase.toNat + p.nTx * p.capTx → ¬p.inArrays x := by
  simp only [Params.wf, Params.placementOk, pairwiseDisjoint, Params.regions, List.all_cons, Bool.and_eq_true,
    decide_eq_true_eq, rangesDisjoint_iff] at h
  obtain ⟨⟨⟨-, -, -, -, hend, -⟩, -⟩, ⟨-, htxd, -⟩, ⟨hrxd, -⟩, -⟩ := h
  refine ⟨hend, fun x h1 h2 => ?_⟩
  rw [Params.inArrays]
  omega

/-- The receive buffers keep off the arrays and do not wrap (R5, R6). -/
theorem Params.wf_rxPool {p : Params} (h : p.wf = true) : p.rxbBase.toNat + p.nRx * p.capRx ≤ 4294967296
    ∧ ∀ x, p.rxbBase.toNat ≤ x → x < p.rxbBase.toNat + p.nRx * p.capRx → ¬p.inArrays x := by
  simp only [Params.wf, Params.placementOk, pairwiseDisjoint, Params.regions, List.all_cons, Bool.and_eq_true,
    decide_eq_true_eq, rangesDisjoint_iff] at h
  obtain ⟨⟨⟨-, -, -, -, -, hend, -⟩, -⟩, ⟨-, -, htxd, -⟩, ⟨-, hrxd, -⟩, -⟩ := h
  refine ⟨hend, fun x h1 h2 => ?_⟩
  rw [Params.inArrays]
  omega

theorem Params.txd_toNat {p : Params} (h : p.wf = true) {i : Nat} (hi : i < p.nTx) :
    (p.txd i).toNat = p.txdBase.toNat + 16 * i := by
  obtain ⟨-, -, -, -, -, -, -, -, -, -, -, hend, -⟩ := Params.wf_rings h
  exact descAddr_toNat (by omega)

theorem Params.rxd_toNat {p : Params} (h : p.wf = true) {i : Nat} (hi : i < p.nRx) :
    (p.rxd i).toNat = p.rxdBase.toNat + 16 * i := by
  obtain ⟨-, -, -, -, -, -, -, -, -, -, -, -, hend, -⟩ := Params.wf_rings h
  exact descAddr_toNat (by omega)

theorem Params.txd_injective {p : Params} (h : p.wf = true) {i j : Nat} (hi : i < p.nTx) (hj : j < p.nTx)
    (e : p.txd i = p.txd j) : i = j := by
  have e' := congrArg BitVec.toNat e
  rw [Params.txd_toNat h hi, Params.txd_toNat h hj] at e'
  omega

theorem Params.rxd_injective {p : Params} (h : p.wf = true) {i j : Nat} (hi : i < p.nRx) (hj : j < p.nRx)
    (e : p.rxd i = p.rxd j) : i = j := by
  have e' := congrArg BitVec.toNat e
  rw [Params.rxd_toNat h hi, Params.rxd_toNat h hj] at e'
  omega

/-- A buffer of a pool that does not wrap lies in the pool. -/
theorem bufAddr_inside {base : Word} {n cap i : Nat} (hi : i < n) (hend : base.toNat + n * cap ≤ 4294967296) (hcap : 1 ≤ cap) :
    base.toNat ≤ (bufAddr base cap i).toNat ∧ (bufAddr base cap i).toNat + cap ≤ base.toNat + n * cap := by
  have hlt : i * cap + cap ≤ n * cap := by
    rw [← Nat.succ_mul]
    exact Nat.mul_le_mul_right cap hi
  have e : (bufAddr base cap i).toNat = base.toNat + i * cap := by
    simp only [bufAddr, BitVec.toNat_add, BitVec.toNat_ofNat]
    omega
  omega

theorem ring_start {n f : Nat} (hf : f < n) : (f + 0) % n = f := Nat.mod_eq_of_lt hf

/-- Two slots of a ring fewer than a round apart are different ones. -/
theorem ring_ne {n f j k : Nat} (hjk : j < k) (hkn : k < j + n) : (f + k) % n ≠ (f + j) % n := by
  intro e
  have h := Nat.sub_mod_eq_zero_of_mod_eq e
  rw [show f + k - (f + j) = k - j by omega, Nat.mod_eq_of_lt (by omega)] at h
  omega

end Sys2Proof

namespace Sys2Proof.Machine
open Sys2Proof

/-! Slots. -/

/-- `d` is a descriptor of one of the rings. -/
def State.slot (s : State) (d : Word) : Prop := s.txSlot d ∨ s.rxSlot d

theorem State.slot_toNat {s : State} {d : Word} (hw : s.par.wf = true) (hd : s.slot d) :
    (∃ i, i < s.par.nTx ∧ d.toNat = s.par.txdBase.toNat + 16 * i)
      ∨ ∃ i, i < s.par.nRx ∧ d.toNat = s.par.rxdBase.toNat + 16 * i := by
  obtain ⟨i, hi, rfl⟩ | ⟨i, hi, rfl⟩ := hd
  · exact .inl ⟨i, hi, Params.txd_toNat hw hi⟩
  · exact .inr ⟨i, hi, Params.rxd_toNat hw hi⟩

theorem State.slot_end {s : State} {d : Word} (hw : s.par.wf = true) (hd : s.slot d) : d.toNat + 16 ≤ 4294967296 := by
  obtain ⟨-, -, -, -, -, -, -, -, -, -, -, htx, hrx, -⟩ := Params.wf_rings hw
  obtain ⟨i, hi, e⟩ | ⟨i, hi, e⟩ := State.slot_toNat hw hd <;> omega

theorem State.slot_inArrays {s : State} {d : Word} (hw : s.par.wf = true) (hd : s.slot d) {x : Nat} (h1 : d.toNat ≤ x)
    (h2 : x < d.toNat + 16) : s.par.inArrays x := by
  rw [Params.inArrays]
  obtain ⟨i, hi, e⟩ | ⟨i, hi, e⟩ := State.slot_toNat hw hd <;> omega

/-- Two slots are the same or do not overlap. -/
theorem State.slots_apart {s : State} {d d' : Word} (hw : s.par.wf = true) (hd : s.slot d) (hd' : s.slot d') (hne : d ≠ d') :
    d.toNat + 16 ≤ d'.toNat ∨ d'.toNat + 16 ≤ d.toNat := by
  have hne' : d.toNat ≠ d'.toNat := fun e => hne (BitVec.eq_of_toNat_eq e)
  have harr := Params.wf_arrays hw
  obtain ⟨i, hi, e⟩ | ⟨i, hi, e⟩ := State.slot_toNat hw hd <;>
    obtain ⟨j, hj, e'⟩ | ⟨j, hj, e'⟩ := State.slot_toNat hw hd' <;> omega

/-- No descriptor belongs to both rings. -/
theorem State.txSlot_ne_rxSlot {s : State} {d d' : Word} (hw : s.par.wf = true) (hd : s.txSlot d) (hd' : s.rxSlot d') : d ≠ d' := by
  rintro rfl
  have harr := Params.wf_arrays hw
  obtain ⟨i, hi, rfl⟩ := hd
  obtain ⟨j, hj, e⟩ := hd'
  have e' := congrArg BitVec.toNat e
  rw [Params.txd_toNat hw hi, Params.rxd_toNat hw hj] at e'
  omega

/-! What a write keeps. -/

theorem SameOutside.mono {m m' : Memory} {a n b k : Nat} (h : SameOutside m m' a n) (h1 : b ≤ a) (h2 : a + n ≤ b + k) :
    SameOutside m m' b k := fun x hx => h x (by omega)

/-- A write to one slot keeps every byte of another. -/
theorem SameOutside.other_slot {s : State} {m : Memory} {d d' : Word} {n : Nat} (h : SameOutside s.mem m d.toNat n) (hn : n ≤ 16)
    (hw : s.par.wf = true) (hd : s.slot d) (hd' : s.slot d') (hne : d' ≠ d) {x : Nat} (h1 : d'.toNat ≤ x) (h2 : x < d'.toNat + 16) :
    m.read x = s.mem.read x := by
  have := State.slots_apart hw hd hd' hne.symm
  exact h x (by omega)

/-- The memory `m` has what initialisation left for good in the descriptors of `s`: `W2` and `W3` of every slot, `W1` of the receive slots
(R38, R39, R119). -/
structure LinksKept (s : State) (m : Memory) : Prop where
  links : ∀ d, s.slot d → ∀ x, d.toNat + 8 ≤ x → x < d.toNat + 16 → m.read x = s.mem.read x
  rxLen : ∀ d, s.rxSlot d → ∀ x, d.toNat + 4 ≤ x → x < d.toNat + 8 → m.read x = s.mem.read x

theorem LinksKept.of_eq {s : State} {m : Memory} (h : m = s.mem) : LinksKept s m :=
  ⟨fun _ _ _ _ _ => by rw [h], fun _ _ _ _ _ => by rw [h]⟩

theorem LinksKept.trans {s : State} {m m' : Memory} (h : LinksKept s m) (h' : LinksKept (s.withMem m) m') : LinksKept s m' :=
  ⟨fun d hd x h1 h2 => (h'.links d hd x h1 h2).trans (h.links d hd x h1 h2),
    fun d hd x h1 h2 => (h'.rxLen d hd x h1 h2).trans (h.rxLen d hd x h1 h2)⟩

/-- A write that keeps off the arrays keeps the links. -/
theorem LinksKept.of_arrays {s : State} {m : Memory} (hw : s.par.wf = true)
    (h : ∀ x, s.par.inArrays x → m.read x = s.mem.read x) : LinksKept s m :=
  ⟨fun _ hd x _ _ => h x (State.slot_inArrays hw hd (by omega) (by omega)),
    fun _ hd x _ _ => h x (State.slot_inArrays hw (.inr hd) (by omega) (by omega))⟩

/-- A write to `W0` of a slot keeps the links. -/
theorem LinksKept.of_w0 {s : State} {m : Memory} {d : Word} (hw : s.par.wf = true) (hd : s.slot d)
    (h : SameOutside s.mem m d.toNat 4) : LinksKept s m := by
  refine ⟨fun d' hd' x h1 h2 => ?_, fun d' hd' x h1 h2 => ?_⟩ <;> by_cases e : d' = d
  · exact h x (by rw [e] at h1; omega)
  · exact h.other_slot (by omega) hw hd hd' e (by omega) h2
  · exact h x (by rw [e] at h1; omega)
  · exact h.other_slot (by omega) hw hd (.inr hd') e (by omega) (by omega)

/-- A write to `W0` and `W1` of a transmit slot keeps the links. -/
theorem LinksKept.of_head {s : State} {m : Memory} {d : Word} (hw : s.par.wf = true) (hd : s.txSlot d)
    (h : SameOutside s.mem m d.toNat 8) : LinksKept s m := by
  refine ⟨fun d' hd' x h1 h2 => ?_, fun d' hd' x h1 h2 => ?_⟩
  · by_cases e : d' = d
    · exact h x (by rw [e] at h1; omega)
    · exact h.other_slot (by omega) hw (.inl hd) hd' e (by omega) h2
  · exact h.other_slot (by omega) hw (.inl hd) (.inr hd') (State.txSlot_ne_rxSlot hw hd hd').symm (by omega) (by omega)

theorem LinksKept.w1 {s : State} {m : Memory} {d : Word} (h : LinksKept s m) (hw : s.par.wf = true) (hd : s.rxSlot d) :
    m.wordAt (w1Addr d).toNat = s.mem.wordAt (w1Addr d).toNat := by
  obtain ⟨-, e, -, -⟩ := wordAddrs (State.slot_end hw (.inr hd))
  exact Memory.wordAt_congr fun i hi => h.rxLen d hd _ (by omega) (by omega)

theorem LinksKept.w2 {s : State} {m : Memory} {d : Word} (h : LinksKept s m) (hw : s.par.wf = true) (hd : s.slot d) :
    m.wordAt (w2Addr d).toNat = s.mem.wordAt (w2Addr d).toNat := by
  obtain ⟨-, -, e, -⟩ := wordAddrs (State.slot_end hw hd)
  exact Memory.wordAt_congr fun i hi => h.links d hd _ (by omega) (by omega)

theorem LinksKept.w3 {s : State} {m : Memory} {d : Word} (h : LinksKept s m) (hw : s.par.wf = true) (hd : s.slot d) :
    m.wordAt (w3Addr d).toNat = s.mem.wordAt (w3Addr d).toNat := by
  obtain ⟨-, -, -, e⟩ := wordAddrs (State.slot_end hw hd)
  exact Memory.wordAt_congr fun i hi => h.links d hd _ (by omega) (by omega)

/-- The ring and binding invariants are about the links only. -/
theorem RingInv.kept {s t : State} (h : RingInv s) (hw : s.par.wf = true) (hpar : t.par = s.par) (hk : LinksKept s t.mem) :
    RingInv t := by
  obtain ⟨htx, hrx, htb, hrb⟩ := h
  rw [RingInv, hpar]
  exact ⟨fun i hi => (hk.w3 hw (.inl ⟨i, hi, rfl⟩)).trans (htx i hi), fun i hi => (hk.w3 hw (.inr ⟨i, hi, rfl⟩)).trans (hrx i hi),
    fun i hi => (hk.w2 hw (.inl ⟨i, hi, rfl⟩)).trans (htb i hi), fun i hi => (hk.w2 hw (.inr ⟨i, hi, rfl⟩)).trans (hrb i hi)⟩

/-- The cursor advance (R112) from slot `i` of a closed ring. -/
theorem RingClosed.next {s : State} {base next : Word} {n i : Nat} (h : RingClosed s.mem base n) (hi : i < n)
    (hn : s.loadW3 (descAddr base i) = some next) : next = descAddr base ((i + 1) % n) :=
  (State.loadWord_some hn).2.trans (h i hi)

/-- The cursor advance (R112) from the `j`-th slot after `f`. -/
theorem RingClosed.next_from {s : State} {base d next : Word} {n f j : Nat} (h : RingClosed s.mem base n) (hpos : 0 < n)
    (hd : d = descAddr base ((f + j) % n)) (hn : s.loadW3 d = some next) : next = descAddr base ((f + (j + 1)) % n) := by
  rw [hd] at hn
  have e := h.next (Nat.mod_lt _ hpos) hn
  rwa [Nat.mod_add_mod] at e

/-- The buffer of slot `i` of a bound ring. -/
theorem BuffersBound.buffer {s : State} {base pool buf : Word} {n cap i : Nat} (h : BuffersBound s.mem base pool n cap) (hi : i < n)
    (hb : s.loadW2 (descAddr base i) = some buf) : buf = bufAddr pool cap i :=
  (State.loadWord_some hb).2.trans (h i hi)

/-- A write to a transmit buffer keeps off the arrays. -/
theorem SameOutside.of_txBuffer {p : Params} {m m' : Memory} {i n : Nat} (h : SameOutside m m' (p.txb i).toNat n)
    (hw : p.wf = true) (hi : i < p.nTx) (hn : n ≤ p.capTx) : ∀ x, p.inArrays x → m'.read x = m.read x := by
  obtain ⟨hend, hoff⟩ := Params.wf_txPool hw
  obtain ⟨-, -, hcap, -⟩ := Params.wf_rings hw
  obtain ⟨hlo, hhi⟩ := bufAddr_inside hi hend hcap
  refine fun x hx => h x ?_
  rw [Params.txb]
  by_contra hin
  exact hoff x (by omega) (by omega) hx

/-- A write to a receive buffer keeps off the arrays. -/
theorem SameOutside.of_rxBuffer {p : Params} {m m' : Memory} {i n : Nat} (h : SameOutside m m' (p.rxb i).toNat n)
    (hw : p.wf = true) (hi : i < p.nRx) (hn : n ≤ p.capRx) : ∀ x, p.inArrays x → m'.read x = m.read x := by
  obtain ⟨hend, hoff⟩ := Params.wf_rxPool hw
  obtain ⟨-, -, -, -, hcap, -⟩ := Params.wf_rings hw
  obtain ⟨hlo, hhi⟩ := bufAddr_inside hi hend hcap
  refine fun x hx => h x ?_
  rw [Params.rxb]
  by_contra hin
  exact hoff x (by omega) (by omega) hx

/-! Ownership. -/

theorem State.hwOwned_congr {s t : State} {d : Word} (h : ∀ x, d.toNat ≤ x → x < d.toNat + 4 → t.mem.read x = s.mem.read x) :
    t.hwOwned d = s.hwOwned d :=
  congrArg own (Memory.wordAt_congr fun _ hi => h _ (Nat.le_add_right _ _) (Nat.add_lt_add_left hi _))

theorem State.loadW0_own {s : State} {d w : Word} (h : s.loadW0 d = some w) : s.hwOwned d = own w := by
  rw [(State.loadWord_some h).2, State.hwOwned]

/-- A write to one slot leaves the others' owners. -/
theorem SameOutside.hwOwned_other {s t : State} {d d' : Word} {n : Nat} (h : SameOutside s.mem t.mem d.toNat n) (hn : n ≤ 16)
    (hw : s.par.wf = true) (hd : s.slot d) (hd' : s.slot d') (hne : d' ≠ d) : t.hwOwned d' = s.hwOwned d' :=
  State.hwOwned_congr fun _ h1 h2 => h.other_slot hn hw hd hd' hne h1 (by omega)

/-- A write off the arrays leaves every slot's owner. -/
theorem State.hwOwned_of_arrays {s t : State} {d : Word} (hw : s.par.wf = true) (hd : s.slot d)
    (h : ∀ x, s.par.inArrays x → t.mem.read x = s.mem.read x) : t.hwOwned d = s.hwOwned d :=
  State.hwOwned_congr fun x h1 h2 => h x (State.slot_inArrays hw hd h1 (by omega))

/-- A field update of a slot's `W0` that keeps `OWN` leaves every slot's owner. -/
theorem State.updateW0_hwOwned {s : State} {m : Memory} {d d' : Word} {f : Word → Word}
    (h : s.updateW0 d f = some (s.withMem m)) (hf : ∀ w, own (f w) = own w) (hw : s.par.wf = true) (hm : s.mem.wf = true)
    (hd : s.slot d) (hd' : s.slot d') : (s.withMem m).hwOwned d' = s.hwOwned d' := by
  obtain ⟨-, -, -, hword, hout⟩ := State.updateW0_some h
  by_cases e : d' = d
  · subst e
    exact (congrArg own (hword hm)).trans (hf _)
  · exact hout.hwOwned_other (by omega) hw hd hd' e

/-- A field update of a slot's `W1` leaves every slot's owner. -/
theorem State.updateW1_hwOwned {s : State} {m : Memory} {d d' : Word} {f : Word → Word}
    (h : s.updateW1 d f = some (s.withMem m)) (hw : s.par.wf = true) (hd : s.slot d) (hd' : s.slot d') :
    (s.withMem m).hwOwned d' = s.hwOwned d' := by
  obtain ⟨-, -, -, -, hout⟩ := State.updateW1_some h
  obtain ⟨-, e1, -, -⟩ := wordAddrs (State.slot_end hw hd)
  rw [e1] at hout
  by_cases e : d' = d
  · exact State.hwOwned_congr fun x h1 h2 => hout x (by rw [e] at h2; omega)
  · exact (hout.mono (k := 8) (Nat.le_add_right _ _) (by omega)).hwOwned_other (by omega) hw hd hd' e

/-- A field update of a slot's `W0` leaves the other slots' owners. -/
theorem State.updateW0_hwOwned_other {s : State} {m : Memory} {d d' : Word} {f : Word → Word}
    (h : s.updateW0 d f = some (s.withMem m)) (hw : s.par.wf = true) (hd : s.slot d) (hd' : s.slot d') (hne : d' ≠ d) :
    (s.withMem m).hwOwned d' = s.hwOwned d' :=
  have ⟨_, _, _, _, hout⟩ := State.updateW0_some h
  SameOutside.hwOwned_other hout (by decide) hw hd hd' hne

/-- A slot given back to software makes no slot hardware-owned. -/
theorem State.storeW0_hwOwned {s : State} {m : Memory} {d d' v : Word} (h : s.storeWord (w0Addr d) v = some (s.withMem m))
    (hv : own v = false) (hw : s.par.wf = true) (hm : s.mem.wf = true) (hd : s.slot d) (hd' : s.slot d')
    (ho : (s.withMem m).hwOwned d' = true) : s.hwOwned d' = true := by
  obtain ⟨-, -, -, hword, hout⟩ := State.storeWord_some h
  by_cases e : d' = d
  · subst e
    have hsw : (s.withMem m).hwOwned d' = false := (congrArg own (hword hm)).trans hv
    rw [hsw] at ho
    exact absurd ho (by decide)
  · rwa [SameOutside.hwOwned_other hout (by decide) hw hd hd' e] at ho

theorem own_clearStatus (w : Word) : own (clearStatus w) = own w := by simp [own, clearStatus]
theorem own_setSegFirst (w : Word) : own (setSegFirst w) = own w := by simp [own, setSegFirst]
theorem own_setSegLast (w : Word) : own (setSegLast w) = own w := by simp [own, setSegLast]

theorem own_retireTx (w : Word) (err : BitVec 14) : own (retireTx w err) = false := getLsbD_retireTx w err 31

theorem own_filledW0 (fs last : Bool) (fl err : BitVec 14) : own (filledW0 fs last fl err) = false :=
  getLsbD_filledW0 fs last fl err 31

end Sys2Proof.Machine
end

section
/-! PROOFS. The moves of TXU and RXU keep both rings whole and write only words of software-owned descriptors (R38 to R40, R73, R75,
R119). -/

namespace Sys2Proof.Machine
open Sys2Proof

/-! Where TXU and RXU write. -/

/-- Nothing but `W0` and `W1` of the descriptor at `d` differs. -/
def OnlyHeadChanged (m m' : Memory) (d : Word) : Prop :=
  ∀ x, (x < d.toNat ∨ d.toNat + 4 ≤ x) → (x < (d + 4#32).toNat ∨ (d + 4#32).toNat + 4 ≤ x) → m'.read x = m.read x

theorem OnlyHeadChanged.sameOutside {m m' : Memory} {d : Word} (h : OnlyHeadChanged m m' d) (hd : d.toNat + 16 ≤ 4294967296) :
    SameOutside m m' d.toNat 8 := fun x hx => by
  obtain ⟨-, e1, -, -⟩ := wordAddrs hd
  rw [w1Addr] at e1
  exact h x (by omega) (by omega)

theorem State.updateW0_onlyHead {s : State} {m : Memory} {d : Word} {f : Word → Word} (h : s.updateW0 d f = some (s.withMem m)) :
    OnlyHeadChanged s.mem m d := fun x hx _ =>
  have ⟨_, _, _, _, hout⟩ := State.updateW0_some h
  hout x hx

theorem State.updateW1_onlyHead {s : State} {m : Memory} {d : Word} {f : Word → Word} (h : s.updateW1 d f = some (s.withMem m)) :
    OnlyHeadChanged s.mem m d := fun x _ hx =>
  have ⟨_, _, _, _, hout⟩ := State.updateW1_some h
  hout x hx

/-- The descriptor TXU's next step writes to. -/
def State.txTarget (s : State) : Option Word :=
  match s.txu.state with
  | .clear | .record => some s.txCur
  | .flagFirst => some s.txu.first
  | .flagLast => some s.txu.last
  | .grant => if s.txu.j < s.txu.cnt then some s.txu.g else none
  | .idle | .check | .waitOwn | .copyStart | .acquire | .poll | .done | .stuck => none

theorem State.txTarget_mem {s : State} {d : Word} (h : s.txTarget = some d) :
    d = s.txCur ∨ d = s.txu.first ∨ d = s.txu.last ∨ d = s.txu.g := by
  cases hs : s.txu.state <;> simp only [State.txTarget, hs, Option.some.injEq, Option.ite_none_right_eq_some, reduceCtorEq] at h
  case clear | record => exact .inl h.symm
  case flagFirst => exact .inr (.inl h.symm)
  case flagLast => exact .inr (.inr (.inl h.symm))
  case grant => exact .inr (.inr (.inr h.2.symm))

/-- A move of TXU writes nothing, or `W0` and `W1` of its target. -/
theorem TxuMove.writes {s t : State} (h : TxuMove s t) :
    t.mem = s.mem ∨ ∃ d, s.txTarget = some d ∧ OnlyHeadChanged s.mem t.mem d := by
  cases h with
  | clear m hs hm => exact .inr ⟨s.txCur, by rw [State.txTarget, hs], State.updateW0_onlyHead hm⟩
  | record m next hs hm hn => exact .inr ⟨s.txCur, by rw [State.txTarget, hs], State.updateW1_onlyHead hm⟩
  | flagFirst m hs hm => exact .inr ⟨s.txu.first, by rw [State.txTarget, hs], State.updateW0_onlyHead hm⟩
  | flagLast m m' hs hm hm' =>
    have hw0 := State.updateW0_onlyHead hm
    have hw1 : OnlyHeadChanged m m' s.txu.last := State.updateW1_onlyHead hm'
    exact .inr ⟨s.txu.last, by rw [State.txTarget, hs], fun x h0 h1 => (hw1 x h0 h1).trans (hw0 x h0 h1)⟩
  | grant m next hs hj hm hn => exact .inr ⟨s.txu.g, by simp only [State.txTarget, hs, if_pos hj], State.updateW0_onlyHead hm⟩
  | _ => exact .inl rfl

/-- A move of RXU writes nothing, `W0` at the cursor when it retires, or the destination's next bytes when it copies. -/
theorem RxuMove.writes {s t : State} (h : RxuMove s t) :
    t.mem = s.mem ∨ (s.rxu.state = .retire ∧ s.rxu.j < s.rxu.k ∧ SameOutside s.mem t.mem s.rxCur.toNat 4)
      ∨ (s.rxu.state = .copy ∧ SameOutside s.mem t.mem (s.rxu.dst + BitVec.ofNat 32 s.rxu.copied).toNat s.copyLen) := by
  cases h with
  | retire m next hs hj hm hn =>
    obtain ⟨-, -, -, -, hout⟩ := State.updateW0_some hm
    exact .inr (.inl ⟨hs, hj, hout⟩)
  | copyPart m k buf next hs hj hmap hb hm hn =>
    obtain ⟨-, -, -, hout, -⟩ := State.memCopy_some hm
    exact .inr (.inr ⟨hs, hout⟩)
  | _ => exact .inl rfl

/-! One side of the rings is about a few registers. -/

/-- The registers TXU's side of `RingsSound` is about. -/
def State.txView (s : State) : Params × Txu × Word := (s.par, s.txu, s.txCur)

/-- The registers RXU's side of `RingsSound` is about. -/
def State.rxView (s : State) : Params × Rxu × Word := (s.par, s.rxu, s.rxCur)

theorem State.txWalk_of_view {s t : State} (hv : t.txView = s.txView) (h : s.txWalk) : t.txWalk := by
  simp only [State.txView, Prod.mk.injEq] at hv
  obtain ⟨hpar, htxu, hcur⟩ := hv
  simpa only [State.txWalk, State.txFrom, State.txSlot, hpar, htxu, hcur] using h

theorem State.rxWalk_of_view {s t : State} (hv : t.rxView = s.rxView) (h : s.rxWalk) : t.rxWalk := by
  simp only [State.rxView, Prod.mk.injEq] at hv
  obtain ⟨hpar, hrxu, hcur⟩ := hv
  simpa only [State.rxWalk, State.rxFrom, hpar, hrxu, hcur] using h

/-- What TXU holds stays held where no transmit slot changes to hardware. -/
theorem State.txHeld_of_view {s t : State} (hv : t.txView = s.txView)
    (hown : ∀ d, s.txSlot d → t.hwOwned d = true → s.hwOwned d = true) (h : s.txHeld) : t.txHeld := by
  simp only [State.txView, Prod.mk.injEq] at hv
  obtain ⟨hpar, htxu, hcur⟩ := hv
  intro f k hf h1 h2
  simp only [State.txFrom, hpar, htxu, hcur] at hf h1 h2 ⊢
  have hs := h f k hf h1 h2
  rw [← Bool.not_eq_true] at hs ⊢
  exact fun ht => hs (hown _ ⟨_, Nat.mod_lt _ (by omega), rfl⟩ ht)

/-- What RXU holds stays held where no receive slot changes to hardware. -/
theorem State.rxHeld_of_view {s t : State} (hv : t.rxView = s.rxView)
    (hown : ∀ d, s.rxSlot d → t.hwOwned d = true → s.hwOwned d = true) (h : s.rxHeld) : t.rxHeld := by
  simp only [State.rxView, Prod.mk.injEq] at hv
  obtain ⟨hpar, hrxu, hcur⟩ := hv
  intro c k hc hk
  simp only [State.rxFrom, hpar, hrxu, hcur] at hc hk ⊢
  have hs := h c k hc hk
  rw [← Bool.not_eq_true] at hs ⊢
  exact fun ht => hs (hown _ ⟨_, Nat.mod_lt _ (by omega), rfl⟩ ht)

theorem RingsSound.rxLens_kept {s t : State} (h : RingsSound s) (hw : s.par.wf = true) (hpar : t.par = s.par)
    (hk : LinksKept s t.mem) :
    ∀ i, i < t.par.nRx → (t.mem.wordAt (w1Addr (t.par.rxd i)).toNat).toNat % 65536 ≤ t.par.capRx := by
  rw [hpar]
  intro i hi
  rw [hk.w1 hw ⟨i, hi, rfl⟩]
  exact h.rxLens i hi

/-- A turn of a device: TXU's and RXU's registers and the links stay, and no descriptor changes to hardware. -/
theorem RingsSound.of_device {s t : State} (h : RingsSound s) (hw : s.par.wf = true) (htx : t.txView = s.txView)
    (hrx : t.rxView = s.rxView) (hk : LinksKept s t.mem) (hown : ∀ d, s.slot d → t.hwOwned d = true → s.hwOwned d = true)
    (htp : t.txBaseSet = true → s.txSlot t.dma.txPtr) (hrp : t.rxBaseSet = true → s.rxSlot t.dma.rxPtr)
    (hcopy : t.copy.busy = true → (∃ i, i < s.par.nTx ∧ t.copy.dst = s.par.txb i) ∧ t.copy.len ≤ s.par.capTx) : RingsSound t :=
  have hpar : t.par = s.par := congrArg Prod.fst htx
  { rings := h.rings.kept hw hpar hk
    txWalk := State.txWalk_of_view htx h.txWalk
    rxWalk := State.rxWalk_of_view hrx h.rxWalk
    txHeld := State.txHeld_of_view htx (fun d hd => hown d (.inl hd)) h.txHeld
    rxHeld := State.rxHeld_of_view hrx (fun d hd => hown d (.inr hd)) h.rxHeld
    txPtr := by rw [State.txSlot, hpar]; exact htp
    rxPtr := by rw [State.rxSlot, hpar]; exact hrp
    copyDst := by rw [hpar]; exact hcopy
    rxLens := h.rxLens_kept hw hpar hk }

/-! TXU. -/

/-- A frame in progress has one first slot, so what is held is said of it alone. -/
theorem State.txHeld_of_from {s : State} {f : Nat} (hw : s.par.wf = true) (hf : s.txFrom f)
    (h : ∀ k, s.txu.held.1 ≤ k → k < s.txu.held.2 → s.hwOwned (s.par.txd ((f + k) % s.par.nTx)) = false) : s.txHeld := by
  rintro f' k ⟨hlt', hfirst', -⟩ h1 h2
  obtain ⟨hlt, hfirst, -⟩ := hf
  rw [Params.txd_injective hw hlt' hlt (hfirst'.symm.trans hfirst)]
  exact h k h1 h2

theorem State.txHeld_of_none {s : State} (h : s.txu.held.2 = 0) : s.txHeld := fun f k _ _ hk => by omega

theorem RingsSound.txHeld_range {s : State} {f a b : Nat} (h : RingsSound s) (hf : s.txFrom f) (hab : s.txu.held = (a, b)) :
    ∀ k, a ≤ k → k < b → s.hwOwned (s.par.txd ((f + k) % s.par.nTx)) = false := fun k h1 h2 =>
  h.txHeld f k hf (by rw [hab]; exact h1) (by rw [hab]; exact h2)

theorem State.txFrom_cur_slot {s : State} {f : Nat} (hf : s.txFrom f) : s.txSlot s.txCur :=
  ⟨_, Nat.mod_lt _ (Nat.zero_lt_of_lt hf.1), hf.2.2⟩

/-- A staged frame has a fragment (R173). -/
theorem Txu.staged_pos {t : Txu} {p : Params} (h : t.staged p) (hcap : 1 ≤ p.capTx) : 0 < t.i := by
  obtain ⟨hcnt, -, hi, -, -, hlen⟩ := h
  have hlen' : t.len.toNat ≠ 0 := fun e => hlen (BitVec.eq_of_toNat_eq e)
  rw [hi, hcnt, ceilDiv]
  exact Nat.div_pos (by omega) hcap

/-- What TXU writes to is a transmit descriptor it holds. -/
theorem RingsSound.txTarget_held {s : State} (h : RingsSound s) (hw : s.par.wf = true) (hi : TxuInv s) {d : Word}
    (hd : s.txTarget = some d) : s.txSlot d ∧ s.hwOwned d = false := by
  obtain ⟨-, -, hcap, -⟩ := Params.wf_rings hw
  have hwalk := h.txWalk
  have key : ∀ f k, s.txFrom f → s.txu.held.1 ≤ k → k < s.txu.held.2 → d = s.par.txd ((f + k) % s.par.nTx) →
      s.txSlot d ∧ s.hwOwned d = false := fun f k hf h1 h2 e =>
    e ▸ ⟨⟨_, Nat.mod_lt _ (Nat.zero_lt_of_lt hf.1), rfl⟩, h.txHeld f k hf h1 h2⟩
  cases hs : s.txu.state <;>
    simp only [State.txTarget, State.txWalk, TxuInv, Txu.held, hs, Option.some.injEq, Option.ite_none_right_eq_some,
      reduceCtorEq] at hd hwalk hi key
  case clear | record =>
    obtain ⟨f, hf⟩ := hwalk
    exact key f s.txu.i hf (Nat.zero_le _) (Nat.lt_succ_self _) (hd.symm.trans hf.2.2)
  case flagFirst =>
    obtain ⟨f, hf, -⟩ := hwalk
    refine key f 0 hf (Nat.le_refl _) (Txu.staged_pos hi hcap) (hd.symm.trans ?_)
    rw [ring_start hf.1]
    exact hf.2.1
  case flagLast =>
    obtain ⟨f, hf, hlast⟩ := hwalk
    have hpos := Txu.staged_pos hi hcap
    exact key f (s.txu.i - 1) hf (Nat.zero_le _) (by omega) (hd.symm.trans hlast)
  case grant =>
    obtain ⟨f, hf, hg⟩ := hwalk
    obtain ⟨⟨-, -, hcnt, -⟩, -⟩ := hi
    exact key f s.txu.j hf (Nat.le_refl _) (by omega) (hd.2.symm.trans hg)

/-- A move of TXU writes nothing, or `W0` and `W1` of a transmit descriptor that is software-owned. -/
theorem TxuMove.writes_held {s t : State} (h : TxuMove s t) (hr : RingsSound s) (hw : s.par.wf = true) (hi : TxuInv s) :
    t.mem = s.mem ∨ ∃ d, s.txSlot d ∧ s.hwOwned d = false ∧ SameOutside s.mem t.mem d.toNat 8 := by
  obtain h | ⟨d, hd, hout⟩ := h.writes
  · exact .inl h
  · obtain ⟨hslot, hown⟩ := hr.txTarget_held hw hi hd
    exact .inr ⟨d, hslot, hown, hout.sameOutside (State.slot_end hw (.inl hslot))⟩

/-- No move of TXU but the grant changes an owner. -/
theorem TxuMove.own_kept {s t : State} (h : TxuMove s t) (hr : RingsSound s) (hw : s.par.wf = true) (hm : s.mem.wf = true)
    (hi : TxuInv s) (hg : s.txu.state ≠ .grant) {d : Word} (hd : s.slot d) : t.hwOwned d = s.hwOwned d := by
  have hslot : ∀ d, s.txTarget = some d → s.slot d := fun d h => .inl (hr.txTarget_held hw hi h).1
  cases h with
  | clear m hs hu => exact State.updateW0_hwOwned hu own_clearStatus hw hm (hslot _ (by rw [State.txTarget, hs])) hd
  | record m next hs hu hn => exact State.updateW1_hwOwned hu hw (hslot _ (by rw [State.txTarget, hs])) hd
  | flagFirst m hs hu => exact State.updateW0_hwOwned hu own_setSegFirst hw hm (hslot _ (by rw [State.txTarget, hs])) hd
  | flagLast m m' hs hu hu' =>
    have hlast := hslot _ (by rw [State.txTarget, hs])
    have hw1 : (s.withMem m').hwOwned d = (s.withMem m).hwOwned d := State.updateW1_hwOwned hu' hw hlast hd
    exact hw1.trans (State.updateW0_hwOwned hu own_setSegLast hw hm hlast hd)
  | grant m next hs hj hu hn => exact absurd hs hg
  | granted hs hj => exact absurd hs hg
  | _ => rfl

/-- Where the slots held stay the same and so do their owners, what TXU holds stays held. -/
theorem RingsSound.txHeld_stays {s t : State} {f : Nat} (h : RingsSound s) (hw : s.par.wf = true) (hpar : t.par = s.par)
    (hf : s.txFrom f) (hft : t.txFrom f) (he : t.txu.held = s.txu.held)
    (hown : ∀ i, t.hwOwned (s.par.txd (i % s.par.nTx)) = s.hwOwned (s.par.txd (i % s.par.nTx))) : t.txHeld := by
  refine State.txHeld_of_from (hpar ▸ hw) hft fun k h1 h2 => ?_
  rw [he] at h1 h2
  rw [hpar]
  exact (hown _).trans (h.txHeld f k hf h1 h2)

/-- TXU's pointers after its move, and what it then holds. -/
theorem TxuMove.walk_held {s t : State} (h : TxuMove s t) (hr : RingsSound s) (hw : s.par.wf = true) (hm : s.mem.wf = true)
    (hi : TxuInv s) (hrt : RingInv t) : t.txWalk ∧ t.txHeld := by
  have hwalk := hr.txWalk
  have hkept : s.txu.state ≠ .grant → ∀ i, t.hwOwned (s.par.txd (i % s.par.nTx)) = s.hwOwned (s.par.txd (i % s.par.nTx)) :=
    fun hg i => have ⟨hpos, _⟩ := Params.wf_rings hw; h.own_kept hr hw hm hi hg (.inl ⟨_, Nat.mod_lt _ hpos, rfl⟩)
  obtain ⟨hclosed, -⟩ := hrt
  cases h with
  | rest => exact ⟨hwalk, hr.txHeld⟩
  | tooLong hs _ | empty hs _ =>
    simp only [State.txWalk, hs] at hwalk
    exact ⟨hwalk, State.txHeld_of_none rfl⟩
  | begin hs hcnt =>
    simp only [State.txWalk, hs] at hwalk
    obtain ⟨f, hf, hcur⟩ := hwalk
    refine ⟨⟨f, hf, hcur, ?_⟩, State.txHeld_of_none rfl⟩
    show s.txCur = s.par.txd ((f + 0) % s.par.nTx)
    rw [ring_start hf]
    exact hcur
  | found w hs hl ho =>
    simp only [State.txWalk, hs] at hwalk
    obtain ⟨f, hf⟩ := hwalk
    refine ⟨⟨f, hf⟩, State.txHeld_of_from hw hf fun k h1 h2 => ?_⟩
    have h2 : k < s.txu.i + 1 := h2
    by_cases e : k = s.txu.i
    · subst e
      rw [← State.loadW0_own hl] at ho
      exact hf.2.2 ▸ ho
    · exact hr.txHeld_range (a := 0) (b := s.txu.i) hf (by rw [Txu.held, hs]) k (Nat.zero_le _) (by omega)
  | clear _ hs _ | copyStart _ hs _ _ _ | acquire hs _ =>
    simp only [State.txWalk, hs] at hwalk
    obtain ⟨f, hf⟩ := hwalk
    refine ⟨⟨f, hf⟩, hr.txHeld_stays hw rfl hf hf ?_ (hkept (by simp [hs]))⟩
    simp [Txu.held, hs, State.gotoTx, State.startCopy, State.acquire]
  | record m next hs hu hn =>
    simp only [State.txWalk, hs] at hwalk
    obtain ⟨f, hf⟩ := hwalk
    have ⟨hlt, hfirst, hcur⟩ := hf
    have hnext : next = s.par.txd ((f + (s.txu.i + 1)) % s.par.nTx) :=
      RingClosed.next_from hclosed (Nat.zero_lt_of_lt hlt) hcur hn
    refine ⟨?_, hr.txHeld_stays hw rfl hf ⟨hlt, hfirst, hnext⟩ ?_ (hkept (by simp [hs]))⟩
    · by_cases hrem : s.txu.rem - BitVec.ofNat 32 s.txu.frag = 0#32
      · simp only [State.txWalk, if_pos hrem]
        exact ⟨f, ⟨hlt, hfirst, hnext⟩, hcur⟩
      · simp only [State.txWalk, if_neg hrem]
        exact ⟨f, hlt, hfirst, hnext⟩
    · by_cases hrem : s.txu.rem - BitVec.ofNat 32 s.txu.frag = 0#32 <;> simp [Txu.held, hs, hrem]
  | flagFirst m hs hu =>
    simp only [State.txWalk, hs] at hwalk
    obtain ⟨f, hf, hlast⟩ := hwalk
    exact ⟨⟨f, hf, hlast⟩, hr.txHeld_stays hw rfl hf hf (by simp [Txu.held, hs, State.gotoTx]) (hkept (by simp [hs]))⟩
  | flagLast m m' hs hu hu' =>
    simp only [State.txWalk, hs] at hwalk
    obtain ⟨f, hf, -⟩ := hwalk
    refine ⟨⟨f, hf, ?_⟩, hr.txHeld_stays hw rfl hf hf (by simp [Txu.held, hs]) (hkept (by simp [hs]))⟩
    show s.txu.first = s.par.txd ((f + 0) % s.par.nTx)
    rw [ring_start hf.1]
    exact hf.2.1
  | grant m next hs hj hu hn =>
    simp only [State.txWalk, hs] at hwalk
    simp only [TxuInv, hs] at hi
    obtain ⟨f, hf, hg⟩ := hwalk
    obtain ⟨⟨-, hfits, hcnt, -⟩, -⟩ := hi
    have hpos := Nat.zero_lt_of_lt hf.1
    have hnext : next = s.par.txd ((f + (s.txu.j + 1)) % s.par.nTx) := RingClosed.next_from hclosed hpos hg hn
    refine ⟨by simp only [State.txWalk, hs]; exact ⟨f, hf, hnext⟩, State.txHeld_of_from hw hf fun k h1 h2 => ?_⟩
    have h1 : s.txu.j + 1 ≤ k := by simpa [Txu.held, hs] using h1
    have h2 : k < s.txu.i := by simpa [Txu.held, hs] using h2
    have hne : s.par.txd ((f + k) % s.par.nTx) ≠ s.txu.g := fun e =>
      ring_ne (by omega) (by omega) (Params.txd_injective hw (Nat.mod_lt _ hpos) (Nat.mod_lt _ hpos) (e.trans hg))
    have hother := State.updateW0_hwOwned_other hu hw (.inl ⟨_, Nat.mod_lt _ hpos, hg⟩) (.inl ⟨_, Nat.mod_lt _ hpos, rfl⟩) hne
    exact hother.trans (hr.txHeld_range hf (by rw [Txu.held, hs]) k (by omega) h2)
  | granted hs hj =>
    simp only [State.txWalk, hs] at hwalk
    obtain ⟨f, hf, -⟩ := hwalk
    exact ⟨⟨f, hf⟩, State.txHeld_of_none rfl⟩
  | poll hs =>
    simp only [State.txWalk, hs] at hwalk
    exact ⟨hwalk, State.txHeld_of_none rfl⟩
  | done hs =>
    simp only [State.txWalk, hs] at hwalk
    obtain ⟨f, hf⟩ := hwalk
    exact ⟨State.txFrom_cur_slot hf, State.txHeld_of_none rfl⟩

/-- The transfer TXU starts goes to the buffer of a transmit descriptor and fits it (R39, R164). -/
theorem TxuMove.copyDst {s t : State} (h : TxuMove s t) (hr : RingsSound s) (hb : t.copy.busy = true) :
    (∃ i, i < t.par.nTx ∧ t.copy.dst = t.par.txb i) ∧ t.copy.len ≤ t.par.capTx := by
  cases h with
  | copyStart buf hs hbuf hfree hfrag =>
    have hwalk := hr.txWalk
    simp only [State.txWalk, hs] at hwalk
    obtain ⟨f, hlt, -, hcur⟩ := hwalk
    obtain ⟨-, -, hbound, -⟩ := hr.rings
    have hpos := Nat.mod_lt (f + s.txu.i) (Nat.zero_lt_of_lt hlt)
    rw [hcur] at hbuf
    exact ⟨⟨_, hpos, BuffersBound.buffer hbound hpos hbuf⟩, Nat.min_le_right _ _⟩
  | _ => exact hr.copyDst hb

/-- A move of TXU keeps both rings whole. -/
theorem TxuMove.ringsSound {s t : State} (h : TxuMove s t) (hr : RingsSound s) (hw : s.par.wf = true) (hm : s.mem.wf = true)
    (hi : TxuInv s) : RingsSound t := by
  have hframe := h.frame
  have hpar : t.par = s.par := by rw [hframe]
  have hk : LinksKept s t.mem := by
    obtain e | ⟨d, hd, -, hout⟩ := h.writes_held hr hw hi
    · exact .of_eq e
    · exact .of_head hw hd hout
  have hown : ∀ d, s.rxSlot d → t.hwOwned d = s.hwOwned d := fun d hd => by
    obtain e | ⟨d', hd', -, hout⟩ := h.writes_held hr hw hi
    · rw [State.hwOwned, e]; rfl
    · exact hout.hwOwned_other (by omega) hw (.inl hd') (.inr hd) (State.txSlot_ne_rxSlot hw hd' hd).symm
  have hrings := hr.rings.kept hw hpar hk
  have hrx : t.rxView = s.rxView := by rw [hframe]; rfl
  obtain ⟨hwalk, hheld⟩ := h.walk_held hr hw hm hi hrings
  have htp : t.txBaseSet = true → t.txSlot t.dma.txPtr := by rw [hframe]; exact hr.txPtr
  have hrp : t.rxBaseSet = true → t.rxSlot t.dma.rxPtr := by rw [hframe]; exact hr.rxPtr
  exact ⟨hrings, hwalk, State.rxWalk_of_view hrx hr.rxWalk, hheld,
    State.rxHeld_of_view hrx (fun d hd => by rw [hown d hd]; exact id) hr.rxHeld, htp, hrp, h.copyDst hr,
    hr.rxLens_kept hw hpar hk⟩

/-- A move of TXU writes to no hardware-owned descriptor (R40, R73). -/
theorem TxuMove.hwOwned_untouched {s t : State} (h : TxuMove s t) (hr : RingsSound s) (hw : s.par.wf = true) (hi : TxuInv s)
    {d : Word} (hd : s.slot d) (ho : s.hwOwned d = true) {x : Nat} (h1 : d.toNat ≤ x) (h2 : x < d.toNat + 16) :
    t.mem.read x = s.mem.read x := by
  obtain e | ⟨d', hd', ho', hout⟩ := h.writes_held hr hw hi
  · rw [e]
  · refine hout.other_slot (by omega) hw (.inl hd') hd ?_ h1 h2
    rintro rfl
    exact absurd ho (by rw [ho']; decide)

/-! RXU. -/

/-- The cursor is one slot, so what is held is said of it alone. -/
theorem State.rxHeld_of_from {s : State} {c : Nat} (hw : s.par.wf = true) (hc : s.rxFrom c)
    (h : ∀ k, k < s.rxu.held → s.hwOwned (s.par.rxd ((c + k) % s.par.nRx)) = false) : s.rxHeld := by
  rintro c' k ⟨hlt', hcur'⟩ hk
  obtain ⟨hlt, hcur⟩ := hc
  rw [Params.rxd_injective hw hlt' hlt (hcur'.symm.trans hcur)]
  exact h k hk

theorem State.rxHeld_of_none {s : State} (h : s.rxu.held = 0) : s.rxHeld := fun c k _ hk => by omega

/-- In every state the receive cursor is at a slot. -/
theorem State.rxWalk_from {s : State} (h : s.rxWalk) : ∃ c, s.rxFrom c := by
  cases hs : s.rxu.state <;> simp only [State.rxWalk, hs] at h
  case scan | copy => obtain ⟨c, hc, -⟩ := h; exact ⟨c, hc⟩
  all_goals exact h

/-- A move of RXU writes nothing in the arrays, or `W0` of the receive descriptor at the cursor, that is software-owned. -/
theorem RxuMove.writes_held {s t : State} (h : RxuMove s t) (hr : RingsSound s) (hd : s.destinationApart) :
    (∀ x, s.par.inArrays x → t.mem.read x = s.mem.read x)
      ∨ (s.rxu.state = .retire ∧ s.rxSlot s.rxCur ∧ s.hwOwned s.rxCur = false ∧ SameOutside s.mem t.mem s.rxCur.toNat 4) := by
  obtain e | ⟨hs, hj, hout⟩ | ⟨hs, hout⟩ := h.writes
  · exact .inl fun x _ => by rw [e]
  · obtain ⟨c, hc⟩ := State.rxWalk_from hr.rxWalk
    have hheld := hr.rxHeld c 0 hc (by simp only [Rxu.held, hs]; omega)
    rw [ring_start hc.1, ← hc.2] at hheld
    exact .inr ⟨hs, ⟨c, hc⟩, hheld, hout⟩
  · refine .inl fun x hx => hout x ?_
    by_contra hin
    have hrange : inRange ((s.rxu.dst + BitVec.ofNat 32 s.rxu.copied).toNat, s.copyLen) x = true := by
      simp only [inRange, Bool.and_eq_true, decide_eq_true_eq]
      omega
    obtain ⟨htx, hrx⟩ := hd hs x hrange
    simp only [inRange, Bool.and_eq_false_iff, decide_eq_false_iff_not] at htx hrx
    rw [Params.inArrays] at hx
    omega

/-- Where the cursor stays, no more is held and no owner changes, what RXU holds stays held. -/
theorem RingsSound.rxHeld_stays {s t : State} {c : Nat} (h : RingsSound s) (hw : s.par.wf = true) (hc : s.rxFrom c)
    (hpar : t.par = s.par) (hcur : t.rxCur = s.rxCur) (he : t.rxu.held ≤ s.rxu.held)
    (hown : ∀ d, s.slot d → t.hwOwned d = s.hwOwned d) : t.rxHeld := by
  refine State.rxHeld_of_from (c := c) (hpar ▸ hw) (by rw [State.rxFrom, hpar, hcur]; exact hc) fun k hk => ?_
  rw [hpar, hown _ (.inr ⟨_, Nat.mod_lt _ (Nat.zero_lt_of_lt hc.1), rfl⟩)]
  exact h.rxHeld c k hc (Nat.lt_of_lt_of_le hk he)

/-- With the scanned descriptor found software-owned RXU holds one more (R191). -/
theorem RingsSound.rxHeld_gathered {s : State} {c : Nat} {w : Word} (h : RingsSound s) (hs : s.rxu.state = .scan) (hc : s.rxFrom c)
    (hp : s.rxu.p = s.par.rxd ((c + s.rxu.k) % s.par.nRx)) (hl : s.loadW0 s.rxu.p = some w) (ho : own w = false) :
    ∀ k, k < s.rxu.k + 1 → s.hwOwned (s.par.rxd ((c + k) % s.par.nRx)) = false := by
  intro k hk
  by_cases e : k = s.rxu.k
  · rw [e, ← hp, State.loadW0_own hl, ho]
  · exact h.rxHeld c k hc (by simp only [Rxu.held, hs]; omega)

/-- With the result settled RXU holds all it has gathered (R191, R192). -/
theorem State.retireWith_walk_held {s : State} {c : Nat} (res : Word) (code : Code) (hw : s.par.wf = true) (hc : s.rxFrom c)
    (h : ∀ k, k < s.rxu.k → s.hwOwned (s.par.rxd ((c + k) % s.par.nRx)) = false) :
    (s.retireWith res code).rxWalk ∧ (s.retireWith res code).rxHeld :=
  ⟨⟨c, hc⟩, State.rxHeld_of_from (s := s.retireWith res code) hw hc h⟩

/-- In `R_LEN` RXU holds all it has gathered (R191). -/
theorem RingsSound.rxHeld_len {s : State} {c : Nat} (h : RingsSound s) (hs : s.rxu.state = .len) (hc : s.rxFrom c) :
    ∀ k, k < s.rxu.k → s.hwOwned (s.par.rxd ((c + k) % s.par.nRx)) = false := fun k hk =>
  h.rxHeld c k hc (by simpa only [Rxu.held, hs] using hk)

/-- RXU's pointers after its move, and what it then holds. -/
theorem RxuMove.walk_held {s t : State} (h : RxuMove s t) (hr : RingsSound s) (hw : s.par.wf = true) (hi : RxuInv s)
    (hd : s.destinationApart) (hrt : RingInv t) : t.rxWalk ∧ t.rxHeld := by
  have hwalk := hr.rxWalk
  have hfrom : ∃ c, s.rxFrom c := State.rxWalk_from hwalk
  have hkept : s.rxu.state ≠ .retire → ∀ d, s.slot d → t.hwOwned d = s.hwOwned d := fun hs d hslot => by
    obtain hmem | ⟨hs', -⟩ := h.writes_held hr hd
    · exact State.hwOwned_of_arrays hw hslot hmem
    · exact absurd hs' hs
  obtain ⟨-, hclosed, -⟩ := hrt
  cases h with
  | rest => exact ⟨hwalk, hr.rxHeld⟩
  | noData w hs hl ho _ => exact ⟨hfrom, State.rxHeld_of_none rfl⟩
  | lastFound w hs hl ho _ =>
    simp only [State.rxWalk, hs] at hwalk
    obtain ⟨c, hc, hp⟩ := hwalk
    exact ⟨⟨c, hc⟩, State.rxHeld_of_from hw hc (hr.rxHeld_gathered hs hc hp hl ho)⟩
  | noLast w hs hl ho hk =>
    simp only [State.rxWalk, hs] at hwalk
    obtain ⟨c, hc, hp⟩ := hwalk
    exact State.retireWith_walk_held _ _ hw hc (hr.rxHeld_gathered hs hc hp hl ho)
  | gather w next hs hl ho hk hn =>
    simp only [State.rxWalk, hs] at hwalk
    obtain ⟨c, hc, hp⟩ := hwalk
    have hnext : next = s.par.rxd ((c + (s.rxu.k + 1)) % s.par.nRx) :=
      RingClosed.next_from hclosed (Nat.zero_lt_of_lt hc.1) hp hn
    refine ⟨by simp only [State.rxWalk, hs]; exact ⟨c, hc, hnext⟩, State.rxHeld_of_from hw hc fun k hk => ?_⟩
    exact hr.rxHeld_gathered hs hc hp hl ho k (by simpa [Rxu.held, hs] using hk)
  | badLength hs _ | discard hs _ _ | overflow hs _ _ _ =>
    obtain ⟨c, hc⟩ := hfrom
    exact State.retireWith_walk_held _ _ hw hc (hr.rxHeld_len hs hc)
  | startCopy hs _ _ _ =>
    obtain ⟨c, hc⟩ := hfrom
    refine ⟨⟨c, hc, ?_⟩, hr.rxHeld_stays hw hc rfl rfl (by simp [Rxu.held, hs]) fun _ _ => rfl⟩
    show s.rxCur = s.par.rxd ((c + 0) % s.par.nRx)
    rw [ring_start hc.1]
    exact hc.2
  | copyPart m k buf next hs hj hmap hb hu hn =>
    simp only [State.rxWalk, hs] at hwalk
    obtain ⟨c, hc, hq⟩ := hwalk
    have hnext : next = s.par.rxd ((c + (s.rxu.j + 1)) % s.par.nRx) :=
      RingClosed.next_from hclosed (Nat.zero_lt_of_lt hc.1) hq hn
    exact ⟨by simp only [State.rxWalk, hs]; exact ⟨c, hc, hnext⟩,
      hr.rxHeld_stays hw hc rfl rfl (by simp [Rxu.held, hs]) (hkept (by simp [hs]))⟩
  | copied hs hj =>
    obtain ⟨c, hc⟩ := hfrom
    exact ⟨⟨c, hc⟩, hr.rxHeld_stays hw hc rfl rfl (by simp [Rxu.held, hs]) fun _ _ => rfl⟩
  | retire m next hs hj hu hn =>
    simp only [RxuInv, hs] at hi
    obtain ⟨c, hc⟩ := hfrom
    have ⟨hlt, hcur⟩ := hc
    have hpos := Nat.zero_lt_of_lt hlt
    have hcur0 : s.rxCur = s.par.rxd ((c + 0) % s.par.nRx) := by rw [ring_start hlt]; exact hcur
    have hnext : next = s.par.rxd ((c + 1) % s.par.nRx) := RingClosed.next_from hclosed hpos hcur0 hn
    refine ⟨by simp only [State.rxWalk, hs]; exact ⟨_, Nat.mod_lt _ hpos, hnext⟩,
      State.rxHeld_of_from hw ⟨Nat.mod_lt _ hpos, hnext⟩ fun k hk => ?_⟩
    have hk : k < s.rxu.k - (s.rxu.j + 1) := by simpa [Rxu.held, hs] using hk
    show (s.withMem m).hwOwned (s.par.rxd (((c + 1) % s.par.nRx + k) % s.par.nRx)) = false
    rw [Nat.mod_add_mod, Nat.add_assoc]
    have hne : s.par.rxd ((c + (1 + k)) % s.par.nRx) ≠ s.rxCur := fun e =>
      ring_ne (by omega) (by omega) (Params.rxd_injective hw (Nat.mod_lt _ hpos) (Nat.mod_lt _ hpos) (e.trans hcur0))
    rw [State.updateW0_hwOwned_other hu hw (.inr ⟨c, hc⟩) (.inr ⟨_, Nat.mod_lt _ hpos, rfl⟩) hne]
    exact (hr.rxHeld c _ hc (by simp only [Rxu.held, hs]; omega))
  | retired hs hj => exact ⟨hfrom, State.rxHeld_of_none rfl⟩
  | done hs => exact ⟨hfrom, State.rxHeld_of_none rfl⟩

/-- A move of RXU keeps both rings whole. -/
theorem RxuMove.ringsSound {s t : State} (h : RxuMove s t) (hr : RingsSound s) (hw : s.par.wf = true) (hi : RxuInv s)
    (hd : s.destinationApart) : RingsSound t := by
  have hframe := h.frame
  have hpar : t.par = s.par := by rw [hframe]
  have hk : LinksKept s t.mem := by
    obtain hmem | ⟨-, hslot, -, hout⟩ := h.writes_held hr hd
    · exact .of_arrays hw hmem
    · exact .of_w0 hw (.inr hslot) hout
  have hown : ∀ d, s.txSlot d → t.hwOwned d = s.hwOwned d := fun d hslot => by
    obtain hmem | ⟨-, hslot', -, hout⟩ := h.writes_held hr hd
    · exact State.hwOwned_of_arrays hw (.inl hslot) hmem
    · exact hout.hwOwned_other (by omega) hw (.inr hslot') (.inl hslot) (State.txSlot_ne_rxSlot hw hslot hslot')
  have hrings := hr.rings.kept hw hpar hk
  have htx : t.txView = s.txView := by rw [hframe]; rfl
  obtain ⟨hwalk, hheld⟩ := h.walk_held hr hw hi hd hrings
  have htp : t.txBaseSet = true → t.txSlot t.dma.txPtr := by rw [hframe]; exact hr.txPtr
  have hrp : t.rxBaseSet = true → t.rxSlot t.dma.rxPtr := by rw [hframe]; exact hr.rxPtr
  have hcopy : t.copy.busy = true → (∃ i, i < t.par.nTx ∧ t.copy.dst = t.par.txb i) ∧ t.copy.len ≤ t.par.capTx := by
    rw [hframe]; exact hr.copyDst
  exact ⟨hrings, State.txWalk_of_view htx hr.txWalk, hwalk,
    State.txHeld_of_view htx (fun d hslot => by rw [hown d hslot]; exact id) hr.txHeld, hheld, htp, hrp, hcopy,
    hr.rxLens_kept hw hpar hk⟩

/-- A move of RXU writes to no hardware-owned descriptor (R40, R73, R75). -/
theorem RxuMove.hwOwned_untouched {s t : State} (h : RxuMove s t) (hr : RingsSound s) (hw : s.par.wf = true)
    (hd : s.destinationApart) {d : Word} (hslot : s.slot d) (ho : s.hwOwned d = true) {x : Nat} (h1 : d.toNat ≤ x)
    (h2 : x < d.toNat + 16) : t.mem.read x = s.mem.read x := by
  obtain hmem | ⟨-, hcur, ho', hout⟩ := h.writes_held hr hd
  · exact hmem x (State.slot_inArrays hw hslot h1 h2)
  · refine hout.other_slot (by omega) hw (.inr hcur) hslot ?_ h1 h2
    rintro rfl
    exact absurd ho (by rw [ho']; decide)

end Sys2Proof.Machine
end

section
/-! PROOFS. No turn of any agent but HOST breaks the rings (R38, R39, R119, R225, R245, R247). -/

namespace Sys2Proof.Machine
open Sys2Proof

theorem State.storeWord_withMem {s t : State} {a v : Word} (h : s.storeWord a v = some t) : ∃ m, t = s.withMem m :=
  ⟨_, (State.storeWord_some h).2.1⟩

theorem State.storeBytes_withMem {s t : State} {a : Word} {bs : List Byte} (h : s.storeBytes a bs = some t) :
    ∃ m, t = s.withMem m := ⟨_, (State.storeBytes_some h).2.1⟩

theorem RingsSound.of_enabledOr {s t : State} {o : Option State} (h : RingsSound s) (ho : ∀ u, o = some u → RingsSound u)
    (ht : enabledOr s o = .next t) : RingsSound t := by
  obtain ht | ⟨-, rfl⟩ := enabledOr_next ht
  · exact ho t ht
  · exact h

/-- The count of free values taken does not matter to the rings. -/
theorem RingsSound.spend {s : State} (h : RingsSound s) (n : Nat) : RingsSound (s.spend n) :=
  ⟨h.rings, h.txWalk, h.rxWalk, h.txHeld, h.rxHeld, h.txPtr, h.rxPtr, h.copyDst, h.rxLens⟩

theorem RingsSound.of_enabledOr_spend {s t : State} {o : Option State} {n : Nat} (h : RingsSound s)
    (ho : ∀ u, o = some u → RingsSound u) (ht : enabledOr s (o.map fun u => u.spend n) = .next t) : RingsSound t := by
  refine h.of_enabledOr (fun u hu => ?_) ht
  obtain ⟨v, hv, rfl⟩ := Option.map_eq_some_iff.mp hu
  exact (ho v hv).spend n

theorem miuStep_ringsSound {s t : State} (hr : RingsSound s) (hw : s.par.wf = true) (h : miuStep s = .next t) : RingsSound t := by
  rw [miuStep_frame h]
  exact hr.of_device hw rfl rfl (.of_eq rfl) (fun _ _ => id) hr.txPtr hr.rxPtr hr.copyDst

theorem miiengStep_ringsSound {s t : State} (hr : RingsSound s) (hw : s.par.wf = true) (h : miiengStep s = .next t) :
    RingsSound t := by
  rw [miiengStep_frame h]
  exact hr.of_device hw rfl rfl (.of_eq rfl) (fun _ _ => id) hr.txPtr hr.rxPtr hr.copyDst

theorem irqStep_ringsSound {s t : State} (hr : RingsSound s) (hw : s.par.wf = true) (h : irqStep s = some t) : RingsSound t := by
  simp only [irqStep, Option.ite_none_right_eq_some, Option.some.injEq] at h
  obtain ⟨-, rfl⟩ := h
  unfold State.release
  split <;> exact hr.of_device hw rfl rfl (.of_eq rfl) (fun _ _ => id) hr.txPtr hr.rxPtr hr.copyDst

/-- A transfer goes to a transmit buffer, which keeps off the arrays (R6, R39, R225). -/
theorem copyStep_ringsSound {s t : State} (hr : RingsSound s) (hw : s.par.wf = true) (h : copyStep s = some t) : RingsSound t := by
  simp only [copyStep, Option.ite_none_right_eq_some, Option.bind_eq_some_iff, Option.some.injEq, Bool.and_eq_true] at h
  obtain ⟨⟨hbusy, -⟩, u, hu, rfl⟩ := h
  obtain ⟨m, k, rfl⟩ := State.memCopy_withMem hu
  obtain ⟨-, -, -, hout, -⟩ := State.memCopy_some hu
  obtain ⟨⟨i, hi, hdst⟩, hlen⟩ := hr.copyDst hbusy
  rw [hdst] at hout
  have harr : ∀ x, s.par.inArrays x → m.read x = s.mem.read x := hout.of_txBuffer hw hi hlen
  simp only [State.emit, State.setTc, State.spend, State.withMem]
  refine hr.of_device hw rfl rfl (.of_arrays hw harr) (fun d hd ho => ?_) hr.txPtr hr.rxPtr fun hb => Bool.noConfusion hb
  rw [← ho]
  exact (State.hwOwned_of_arrays hw hd harr).symm

/-- A descriptor transmitted comes back to software, and MACDMA goes on to the next (R245). -/
theorem dmaTransmit_ringsSound {err : BitVec 14} {s t : State} (hr : RingsSound s) (hw : s.par.wf = true) (hm : s.mem.wf = true)
    (h : dmaTransmit err s = some t) : RingsSound t := by
  simp only [dmaTransmit, Option.ite_none_right_eq_some, Option.bind_eq_some_iff, Option.some.injEq, State.txEnabled,
    Bool.and_eq_true] at h
  obtain ⟨⟨⟨-, hset⟩, -⟩, w0, -, -, w1, -, -, buf, -, bytes, -, u, hu, next, hn, rfl⟩ := h
  obtain ⟨m, rfl⟩ := State.storeWord_withMem hu
  obtain ⟨-, -, -, -, hout⟩ := State.storeWord_some hu
  obtain ⟨i, hi, hptr⟩ := hr.txPtr hset
  have hslot : s.slot s.dma.txPtr := .inl ⟨i, hi, hptr⟩
  have hk : LinksKept s m := .of_w0 hw hslot hout
  obtain ⟨hclosed, -⟩ := hr.rings.kept (t := s.withMem m) hw rfl hk
  have hnext : next = s.par.txd ((i + 1) % s.par.nTx) := by
    rw [hptr] at hn
    exact RingClosed.next hclosed hi hn
  exact hr.of_device hw rfl rfl hk (fun d hd => State.storeW0_hwOwned hu (own_retireTx w0 err) hw hm hslot hd)
    (fun _ => ⟨_, Nat.mod_lt _ (Nat.zero_lt_of_lt hi), hnext⟩) hr.rxPtr hr.copyDst

theorem dmaSuspend_ringsSound {s t : State} (hr : RingsSound s) (hw : s.par.wf = true) (h : dmaSuspend s = some t) :
    RingsSound t := by
  simp only [dmaSuspend, Option.ite_none_right_eq_some, Option.ite_none_left_eq_some, Option.bind_eq_some_iff,
    Option.some.injEq] at h
  obtain ⟨-, w0, -, -, rfl⟩ := h
  exact hr.of_device hw rfl rfl (.of_eq rfl) (fun _ _ => id) hr.txPtr hr.rxPtr hr.copyDst

theorem bufLen_toNat (w : Word) : (bufLen w).toNat = w.toNat % 65536 := by simp [bufLen]

/-- A descriptor filled comes back to software, its bytes go to its buffer, and MACDMA goes on to the next (R247). -/
theorem dmaFill_ringsSound {fl err : BitVec 14} {s t : State} (hr : RingsSound s) (hw : s.par.wf = true) (hm : s.mem.wf = true)
    (h : dmaFill fl err s = some t) : RingsSound t := by
  simp only [dmaFill, State.fillDesc, Option.ite_none_right_eq_some, Option.bind_eq_some_iff, Option.some.injEq, State.rxEnabled,
    Bool.and_eq_true] at h
  obtain ⟨⟨⟨-, hset⟩, -⟩, w0, -, -, w1, hw1, -, buf, hbuf, u, hu, v, hv, next, hn, rfl⟩ := h
  obtain ⟨m, rfl⟩ := State.storeBytes_withMem hu
  obtain ⟨m', rfl⟩ := State.storeWord_withMem hv
  obtain ⟨-, -, -, -, hout⟩ := State.storeWord_some hv
  obtain ⟨i, hi, hptr⟩ := hr.rxPtr hset
  have hslot : s.slot s.dma.rxPtr := .inr ⟨i, hi, hptr⟩
  obtain ⟨-, -, -, hbound⟩ := hr.rings
  have hlen : (s.dma.rxPend.take (min s.dma.rxPend.length (bufLen w1).toNat)).length ≤ s.par.capRx := by
    have hfit := hr.rxLens i hi
    rw [← hptr, ← (State.loadWord_some hw1).2, ← bufLen_toNat] at hfit
    rw [List.length_take]
    omega
  rw [hptr] at hbuf
  rw [BuffersBound.buffer hbound hi hbuf] at hu
  obtain ⟨-, -, hmwf, -, hbytes⟩ := State.storeBytes_some hu
  have harr := hbytes.of_rxBuffer hw hi hlen
  have hk : LinksKept s m' := (LinksKept.of_arrays hw harr).trans (.of_w0 (s := s.withMem m) hw hslot hout)
  obtain ⟨-, hclosed, -⟩ := hr.rings.kept (t := s.withMem m') hw rfl hk
  have hnext : next = s.par.rxd ((i + 1) % s.par.nRx) := by
    rw [hptr] at hn
    exact RingClosed.next hclosed hi hn
  have hown : ∀ d, s.slot d → (s.withMem m').hwOwned d = true → s.hwOwned d = true := fun d hd ho => by
    rw [← State.hwOwned_of_arrays (t := s.withMem m) hw hd harr]
    exact State.storeW0_hwOwned hv (own_filledW0 _ _ _ _) hw (hmwf hm) hslot hd ho
  simp only [State.emit, State.withMem]
  exact hr.of_device hw rfl rfl hk hown hr.txPtr (fun _ => ⟨_, Nat.mod_lt _ (Nat.zero_lt_of_lt hi), hnext⟩) hr.copyDst

theorem dmaArrive_ringsSound {frame : List Byte} {s t : State} (hr : RingsSound s) (hw : s.par.wf = true)
    (h : dmaArrive frame s = some t) : RingsSound t := by
  simp only [dmaArrive, Option.ite_none_right_eq_some, Option.some.injEq] at h
  obtain ⟨-, rfl⟩ := h
  exact hr.of_device hw rfl rfl (.of_eq rfl) (fun _ _ => id) hr.txPtr hr.rxPtr hr.copyDst

/-- No turn of an agent but HOST breaks the rings. -/
theorem turnStep_ringsSound {s t : State} {u : Turn} (hhost : u ≠ .host) (hreset : u ≠ .reset) (hw : s.par.wf = true)
    (hm : s.mem.wf = true) (hr : RingsSound s) (htx : TxuInv s) (hrx : RxuInv s) (hd : s.destinationApart)
    (h : turnStep u s = .next t) : RingsSound t := by
  cases u with
  | host => exact absurd rfl hhost
  | reset => exact absurd rfl hreset
  | txu => exact (txuStep_move h).ringsSound hr hw hm htx
  | rxu => exact (rxuStep_move h).ringsSound hr hw hrx hd
  | miu => exact miuStep_ringsSound hr hw h
  | irq => exact hr.of_enabledOr (fun _ => irqStep_ringsSound hr hw) h
  | copy => exact hr.of_enabledOr (fun _ => copyStep_ringsSound hr hw) h
  | dmaTransmit => exact hr.of_enabledOr_spend (fun _ => dmaTransmit_ringsSound hr hw hm) h
  | dmaSuspend => exact hr.of_enabledOr (fun _ => dmaSuspend_ringsSound hr hw) h
  | dmaFill => exact hr.of_enabledOr_spend (fun _ => dmaFill_ringsSound hr hw hm) h
  | dmaArrive => exact hr.of_enabledOr_spend (fun _ => dmaArrive_ringsSound hr hw) h
  | miieng => exact miiengStep_ringsSound hr hw h

/-- TXU writes at most the first two words of the descriptors its registers name. -/
theorem txuStep_read {s t : State} (h : txuStep s = .next t) {x : Nat}
    (hx : ∀ d, d = s.txCur ∨ d = s.txu.first ∨ d = s.txu.last ∨ d = s.txu.g →
      (x < d.toNat ∨ d.toNat + 4 ≤ x) ∧ (x < (d + 4#32).toNat ∨ (d + 4#32).toNat + 4 ≤ x)) : t.mem.read x = s.mem.read x := by
  obtain e | ⟨d, hd, hout⟩ := (txuStep_move h).writes
  · rw [e]
  · obtain ⟨h0, h1⟩ := hx d (State.txTarget_mem hd)
    exact hout x h0 h1

/-- RXU writes at most `W0` at the cursor and the destination's next bytes. -/
theorem rxuStep_read {s t : State} (h : rxuStep s = .next t) {x : Nat} (hcur : x < s.rxCur.toNat ∨ s.rxCur.toNat + 4 ≤ x)
    (hdst : x < (s.rxu.dst + BitVec.ofNat 32 s.rxu.copied).toNat
      ∨ (s.rxu.dst + BitVec.ofNat 32 s.rxu.copied).toNat + s.copyLen ≤ x) : t.mem.read x = s.mem.read x := by
  obtain e | ⟨-, -, hout⟩ | ⟨-, hout⟩ := (rxuStep_move h).writes
  · rw [e]
  · exact hout x hcur
  · exact hout x hdst

/-- Settles O56: where each move of the two sequencers writes, and that every turn keeps the rings whole. -/
theorem sequencersWriteOnlyTheirWords : Obligations.SequencersWriteOnlyTheirWords := by
  refine ⟨fun s t x => ⟨fun h hx => txuStep_read h hx, fun h hcur hdst => rxuStep_read h hcur hdst⟩,
    fun s t u hhost hreset hw hm hr htx hrx hd h => ?_⟩
  refine ⟨turnStep_ringsSound hhost hreset hw hm hr htx hrx hd h, ?_⟩
  rintro (rfl | rfl) d hslot ho x h1 h2
  · exact (txuStep_move h).hwOwned_untouched hr hw htx hslot ho h1 h2
  · exact (rxuStep_move h).hwOwned_untouched hr hw hd hslot ho h1 h2

end Sys2Proof.Machine
end

section
/-! PROOFS. The canonical form of the memory (R60) is kept by every turn: what each shared operation, each move of the sequencers, each
meaning and each device's step does to the memory. -/

namespace Sys2Proof.Machine
open Sys2Proof

/-- An agent that is not enabled changes nothing, so only its enabled step is in question. -/
theorem enabledOr_wf {s t : State} {o : Option State} (hm : s.mem.wf = true) (ho : ∀ u, o = some u → u.mem.wf = true)
    (h : enabledOr s o = .next t) : t.mem.wf = true := by
  obtain h | ⟨-, rfl⟩ := enabledOr_next h
  · exact ho t h
  · exact hm

/-- The count of free values taken does not matter to the memory. -/
theorem enabledOr_spend_wf {s t : State} {o : Option State} {n : Nat} (hm : s.mem.wf = true)
    (ho : ∀ u, o = some u → u.mem.wf = true) (h : enabledOr s (o.map fun u => u.spend n) = .next t) : t.mem.wf = true := by
  refine enabledOr_wf hm (fun u hu => ?_) h
  obtain ⟨v, hv, rfl⟩ := Option.map_eq_some_iff.mp hu
  exact ho v hv

/-! The shared operations. Where such a lemma is used below, `(… :)` keeps the state it speaks of apart from the state of the goal, which has
the same memory and other registers. -/

theorem State.storeWord_wf {s t : State} {a v : Word} (hm : s.mem.wf = true) (h : s.storeWord a v = some t) :
    t.mem.wf = true :=
  have ⟨_, _, hwf, _, _⟩ := State.storeWord_some h
  hwf hm

theorem State.storeBytes_wf {s t : State} {a : Word} {bs : List Byte} (hm : s.mem.wf = true)
    (h : s.storeBytes a bs = some t) : t.mem.wf = true :=
  have ⟨_, _, hwf, _, _⟩ := State.storeBytes_some h
  hwf hm

theorem State.memCopy_wf {s t : State} {dst src : Word} {n : Nat} (hm : s.mem.wf = true)
    (h : s.memCopy dst src n = some t) : t.mem.wf = true :=
  have ⟨_, _, hwf, _, _⟩ := State.memCopy_some h
  hwf hm

theorem State.updateW0_wf {s t : State} {d : Word} {f : Word → Word} (hm : s.mem.wf = true)
    (h : s.updateW0 d f = some t) : t.mem.wf = true :=
  have ⟨_, _, hwf, _, _⟩ := State.updateW0_some h
  hwf hm

theorem State.updateW1_wf {s t : State} {d : Word} {f : Word → Word} (hm : s.mem.wf = true)
    (h : s.updateW1 d f = some t) : t.mem.wf = true :=
  have ⟨_, _, hwf, _, _⟩ := State.updateW1_some h
  hwf hm

theorem State.release_mem (s : State) : s.release.mem = s.mem := by
  unfold State.release
  split <;> rfl

theorem State.takeTurn_mem (s : State) : s.takeTurn.mem = s.mem := by
  unfold State.takeTurn
  split <;> rfl

/-! The sequencers: only the moves that update a descriptor word or copy bytes write at all. -/

theorem TxuMove.mem_wf {s t : State} (h : TxuMove s t) (hm : s.mem.wf = true) : t.mem.wf = true := by
  cases h with
  | clear m hs hu => exact (State.updateW0_wf hm hu :)
  | record m next hs hu hn => exact (State.updateW1_wf hm hu :)
  | flagFirst m hs hu => exact (State.updateW0_wf hm hu :)
  | flagLast m m' hs hu hu' =>
    have hfirst : (s.withMem m).mem.wf = true := State.updateW0_wf hm hu
    exact (State.updateW1_wf hfirst hu' :)
  | grant m next hs hj hu hn => exact (State.updateW0_wf hm hu :)
  | _ => exact hm

theorem RxuMove.mem_wf {s t : State} (h : RxuMove s t) (hm : s.mem.wf = true) : t.mem.wf = true := by
  cases h with
  | copyPart m k buf next hs hj hmap hb hc hn => exact (State.memCopy_wf hm hc :)
  | retire m next hs hj hu hn => exact (State.updateW0_wf hm hu :)
  | _ => exact hm

/-! The instructions: the two initialisations and `GET_MAC` write to memory. -/

theorem execInitRxRing_wf {s t : State} (hm : s.mem.wf = true) (h : execInitRxRing s = .next t) : t.mem.wf = true := by
  unfold execInitRxRing at h
  split at h
  · cases h; exact hm
  · split at h
    · cases h; exact hm
    · split at h
      · rename_i u hu
        cases h
        obtain ⟨-, hwf⟩ := State.initDescs_mem hu
        exact hwf hm
      · cases h; exact hm

theorem execInitTxRing_wf {s t : State} (hm : s.mem.wf = true) (h : execInitTxRing s = .next t) : t.mem.wf = true := by
  unfold execInitTxRing at h
  split at h
  · cases h; exact hm
  · split at h
    · cases h; exact hm
    · split at h
      · rename_i u hu
        cases h
        obtain ⟨-, hwf⟩ := State.initDescs_mem hu
        exact hwf hm
      · cases h; exact hm

theorem execGetMac_wf {s t : State} (hm : s.mem.wf = true) (h : execGetMac s = .next t) : t.mem.wf = true := by
  unfold execGetMac at h
  split at h
  · cases h; exact hm
  · split at h
    · rename_i u hu
      cases h
      exact (State.storeBytes_wf (s := s.accept) hm hu :)
    · cases h; exact hm

theorem execSend_mem {s t : State} (h : execSend s = .next t) : t.mem = s.mem := by
  unfold execSend at h
  split at h <;> cases h <;> rfl

theorem execReceive_mem {block : Bool} {s t : State} (h : execReceive block s = .next t) : t.mem = s.mem := by
  unfold execReceive at h
  split at h <;> cases h <;> rfl

theorem execPollRx_mem {s t : State} (h : execPollRx s = .next t) : t.mem = s.mem := by
  unfold execPollRx at h
  split at h
  · cases h; rfl
  · split at h <;> cases h <;> rfl

theorem execReadPhy_mem {s t : State} (h : execReadPhy s = .next t) : t.mem = s.mem := by
  unfold execReadPhy at h
  split at h <;> cases h <;> rfl

theorem execWritePhy_mem {s t : State} (h : execWritePhy s = .next t) : t.mem = s.mem := by
  unfold execWritePhy at h
  split at h <;> cases h <;> rfl

theorem execSetMac_mem {s t : State} (h : execSetMac s = .next t) : t.mem = s.mem := by
  unfold execSetMac at h
  split at h
  · cases h; rfl
  · split at h <;> cases h <;> rfl

theorem exec_wf {i : Instr} {s t : State} (hm : s.mem.wf = true) (h : exec i s = .next t) : t.mem.wf = true := by
  cases i with
  | initRxRing => exact execInitRxRing_wf hm h
  | initTxRing => exact execInitTxRing_wf hm h
  | getMac => exact execGetMac_wf hm h
  | send => rwa [execSend_mem h]
  | receive block => rwa [execReceive_mem h]
  | pollRx => rwa [execPollRx_mem h]
  | readPhy => rwa [execReadPhy_mem h]
  | writePhy => rwa [execWritePhy_mem h]
  | setMac => rwa [execSetMac_mem h]
  | miiRead pa ri => rwa [execMiiRead_frame h]
  | miiWrite pa ri => rwa [execMiiWrite_frame h]

/-! HOST. -/

theorem State.ifMiuIdle_mem {s t : State} (h : t.mem = s.mem) : (s.ifMiuIdle t).mem = s.mem := by
  unfold State.ifMiuIdle
  split
  · rfl
  · exact h

/-- No register but `CMD` reaches the memory. -/
theorem State.writeReg_mem (s : State) (r : Reg) (v : Word) : (s.writeReg r v).mem = s.mem := by
  cases r with
  | txBase => simp only [State.writeReg, State.writeTxBase]; split <;> rfl
  | rxBase => simp only [State.writeReg, State.writeRxBase]; split <;> rfl
  | miiReq | miiData | macHi | macLo => exact State.ifMiuIdle_mem rfl
  | _ => rfl

theorem hostCommand_wf {v : Word} {s t : State} (hm : s.mem.wf = true) (h : hostCommand v s = .next t) :
    t.mem.wf = true := by
  unfold hostCommand at h
  split at h
  · exact exec_wf hm h
  · cases h; exact hm

theorem hostWrite_wf {off width : Nat} {v : Word} {s t : State} (hm : s.mem.wf = true)
    (h : hostWrite off width v s = .next t) : t.mem.wf = true := by
  unfold hostWrite at h
  split at h
  · exact hostCommand_wf hm h
  · cases h; rwa [State.writeReg_mem]
  · cases h; exact hm

theorem hostRead_mem (off width : Nat) (s : State) : (hostRead off width s).mem = s.mem := by
  unfold hostRead
  split <;> rfl

theorem hostStep_wf {s t : State} (hm : s.mem.wf = true) (h : hostStep s = .next t) : t.mem.wf = true := by
  unfold hostStep at h
  split at h
  case h_1 => cases h; exact hm
  case h_2 q _ => exact hostWrite_wf (s := { s with hostQ := q }) hm h
  case h_3 => cases h; rwa [hostRead_mem]
  case h_4 q _ => exact enabledOr_wf hm (fun _ => State.storeBytes_wf (s := { s with hostQ := q }) hm) h
  case h_5 => split at h <;> cases h <;> exact hm
  case h_6 => split at h <;> cases h <;> exact hm

/-! IRQ, COPY and MACDMA. -/

theorem irqStep_wf {s t : State} (hm : s.mem.wf = true) (h : irqStep s = some t) : t.mem.wf = true := by
  simp only [irqStep, Option.ite_none_right_eq_some, Option.some.injEq] at h
  obtain ⟨-, rfl⟩ := h
  rwa [State.release_mem]

theorem copyStep_wf {s t : State} (hm : s.mem.wf = true) (h : copyStep s = some t) : t.mem.wf = true := by
  simp only [copyStep, Option.ite_none_right_eq_some, Option.bind_eq_some_iff, Option.some.injEq] at h
  obtain ⟨-, u, hu, rfl⟩ := h
  exact (State.memCopy_wf hm hu :)

theorem dmaTransmit_wf {err : BitVec 14} {s t : State} (hm : s.mem.wf = true) (h : dmaTransmit err s = some t) :
    t.mem.wf = true := by
  simp only [dmaTransmit, Option.ite_none_right_eq_some, Option.bind_eq_some_iff, Option.some.injEq] at h
  obtain ⟨-, w0, -, -, w1, -, -, buf, -, bytes, -, u, hu, next, -, rfl⟩ := h
  exact (State.storeWord_wf hm hu :)

theorem dmaSuspend_wf {s t : State} (hm : s.mem.wf = true) (h : dmaSuspend s = some t) : t.mem.wf = true := by
  simp only [dmaSuspend, Option.ite_none_right_eq_some, Option.ite_none_left_eq_some, Option.bind_eq_some_iff,
    Option.some.injEq] at h
  obtain ⟨-, w0, -, -, rfl⟩ := h
  exact hm

theorem State.fillDesc_wf {s t : State} {buf : Word} {c : Nat} {last : Bool} {field err : BitVec 14} (hm : s.mem.wf = true)
    (h : s.fillDesc buf c last field err = some t) : t.mem.wf = true := by
  simp only [State.fillDesc, Option.bind_eq_some_iff, Option.some.injEq] at h
  obtain ⟨u, hu, v, hv, next, -, rfl⟩ := h
  exact (State.storeWord_wf (State.storeBytes_wf hm hu) hv :)

theorem dmaFill_wf {fl err : BitVec 14} {s t : State} (hm : s.mem.wf = true) (h : dmaFill fl err s = some t) :
    t.mem.wf = true := by
  simp only [dmaFill, Option.ite_none_right_eq_some, Option.bind_eq_some_iff] at h
  obtain ⟨-, w0, -, -, w1, -, -, buf, -, h⟩ := h
  exact State.fillDesc_wf hm h

theorem dmaArrive_wf {frame : List Byte} {s t : State} (hm : s.mem.wf = true) (h : dmaArrive frame s = some t) :
    t.mem.wf = true := by
  simp only [dmaArrive, Option.ite_none_right_eq_some, Option.some.injEq] at h
  obtain ⟨-, rfl⟩ := h
  exact hm

/-! One turn, one step. -/

/-- Every turn keeps the memory's form, a reset's included: it does not touch the memory (R291). -/
theorem turnStep_wf {u : Turn} {s t : State} (hm : s.mem.wf = true) (h : turnStep u s = .next t) : t.mem.wf = true := by
  cases u with
  | host => exact hostStep_wf hm h
  | txu => exact (txuStep_move h).mem_wf hm
  | rxu => exact (rxuStep_move h).mem_wf hm
  | miu => rwa [miuStep_frame h]
  | irq => exact enabledOr_wf hm (fun _ => irqStep_wf hm) h
  | copy => exact enabledOr_wf hm (fun _ => copyStep_wf hm) h
  | dmaTransmit => exact enabledOr_spend_wf hm (fun _ => dmaTransmit_wf hm) h
  | dmaSuspend => exact enabledOr_wf hm (fun _ => dmaSuspend_wf hm) h
  | dmaFill => exact enabledOr_spend_wf hm (fun _ => dmaFill_wf hm) h
  | dmaArrive => exact enabledOr_spend_wf hm (fun _ => dmaArrive_wf hm) h
  | miieng => rwa [miiengStep_frame h]
  | reset => cases h; exact hm

/-- Settles O50: taking the turn leaves the memory, and the turn keeps its form. -/
theorem everyStepKeepsMemoryCanonical : Obligations.EveryStepKeepsMemoryCanonical := by
  intro s t hm h
  refine turnStep_wf ?_ h
  rwa [State.takeTurn_mem]

end Sys2Proof.Machine
end

section
/-! PROOFS. A one-step command whose access is not admitted leaves its unit stuck (R64, R76, U8). -/

namespace Sys2Proof.Machine
open Sys2Proof

theorem State.loadWord_of_not_admits {s : State} {a : Word} (h : s.admitsWord a = false) : s.loadWord a = none := by
  simp [State.loadWord, h]

theorem State.loadBytes_of_unmapped {s : State} {a : Word} {n : Nat} (h : s.par.mappedRange a.toNat n = false) :
    s.loadBytes a n = none := by
  simp [State.loadBytes, h]

theorem State.storeBytes_of_unmapped {s : State} {a : Word} {bs : List Byte}
    (h : s.par.mappedRange a.toNat bs.length = false) : s.storeBytes a bs = none := by
  simp [State.storeBytes, h]

theorem execPollRx_sticks {s : State} (hidle : s.busy .rxu = false) (h : s.admitsWord s.rxCur = false) :
    execPollRx s = .next s.accept.stickRx := by
  have hload : s.loadW0 s.rxCur = none := State.loadWord_of_not_admits h
  simp [execPollRx, hidle, hload]

theorem execSetMac_sticks {s : State} (hidle : s.busy .miu = false) (h : s.par.mappedRange s.arg0.toNat 6 = false) :
    execSetMac s = .next s.accept.stickMii := by
  simp [execSetMac, hidle, State.loadBytes_of_unmapped h]

theorem execGetMac_sticks {s : State} (hidle : s.busy .miu = false) (h : s.par.mappedRange s.arg0.toNat 6 = false) :
    execGetMac s = .next s.accept.stickMii := by
  have hstore : s.accept.storeBytes s.arg0 (macBytes s.macHi s.macLo) = none := State.storeBytes_of_unmapped h
  simp [execGetMac, hidle, hstore]

/-- Settles O25: each of the three is accepted into the stuck state, which is busy and has no step. -/
theorem unadmittedAccessHangsTheUnit : Obligations.UnadmittedAccessHangsTheUnit := by
  intro s
  constructor
  · intro hidle h
    exact ⟨s.accept.stickRx, execPollRx_sticks hidle h, rfl, rfl, rfl⟩
  · rintro hidle h i (rfl | rfl)
    · exact ⟨s.accept.stickMii, execSetMac_sticks hidle h, rfl, rfl, rfl⟩
    · exact ⟨s.accept.stickMii, execGetMac_sticks hidle h, rfl, rfl, rfl⟩

end Sys2Proof.Machine
end

section
/-! PROOFS. The two formats of instruction words (R80 to R84, R90): their fields as numbers, which words decode, and that decoding and
encoding agree. -/

namespace Sys2Proof
open Sys2Proof.Machine

/-! The fields of a command word as numbers (R81). -/

theorem cmdOp_toNat (w : Word) : (cmdOp w).toNat = w.toNat % 256 := by simp [cmdOp]

theorem cmdOp_eq_iff (w : Word) (op : BitVec 8) : cmdOp w = op ↔ w.toNat % 256 = op.toNat := by
  rw [← BitVec.toNat_inj, cmdOp_toNat]

theorem cmdBlk_iff (w : Word) : cmdBlk w = true ↔ w.toNat / 256 % 2 = 1 := by
  simp [cmdBlk, BitVec.getLsbD, Nat.testBit_eq_decide_div_mod_eq]

theorem cmdReserved_eq_zero_iff (w : Word) : cmdReserved w = 0#23 ↔ w.toNat / 512 = 0 := by
  have hw := w.isLt
  rw [← BitVec.toNat_inj, cmdReserved, BitVec.extractLsb'_toNat, BitVec.toNat_ofNat, Nat.shiftRight_eq_div_pow]
  omega

/-! The command format (R81, R83, R84). -/

/-- The reserved check of R81, by number: a bit of [31:9] is 1, or `BLK` is 1 on another operation than `RECEIVE`. -/
abbrev CmdReserved (w : Word) : Prop := w.toNat / 512 ≠ 0 ∨ (w.toNat / 256 % 2 = 1 ∧ w.toNat % 256 ≠ 4)

theorem cmdReserved_iff (w : Word) :
    (cmdReserved w ≠ 0#23 ∨ (cmdBlk w = true ∧ cmdOp w ≠ 4#8)) ↔ CmdReserved w := by
  rw [Ne, cmdReserved_eq_zero_iff, cmdBlk_iff, Ne, cmdOp_eq_iff]
  rfl

theorem decode_cmd_of_reserved {w : Word} (h : CmdReserved w) : decode .cmd w = .error .reservedBits := by
  rw [decode, decodeCmd, if_pos ((cmdReserved_iff w).2 h)]

theorem decode_cmd_of_not_reserved {w : Word} (h : ¬CmdReserved w) :
    decode .cmd w = decodeOp (w.toNat % 256) (cmdBlk w) := by
  rw [decode, decodeCmd, if_neg (mt (cmdReserved_iff w).1 h), cmdOp_toNat]

/-- No operation has number 0 or a number from 10 up (R84). -/
theorem decodeOp_of_illegal {op : Nat} (h : op = 0 ∨ 10 ≤ op) (blk : Bool) : decodeOp op blk = .error .illegalOp := by
  unfold decodeOp
  split
  case h_10 => rfl
  all_goals omega

theorem decode_cmd_of_illegal {w : Word} (hres : ¬CmdReserved w) (h : w.toNat % 256 = 0 ∨ 10 ≤ w.toNat % 256) :
    decode .cmd w = .error .illegalOp := by
  rw [decode_cmd_of_not_reserved hres, decodeOp_of_illegal h]

/-- An operation's command word is its number, with `BLK` at bit 8 for `RECEIVE` (R81, R83). -/
theorem decodeOp_ok {op : Nat} {blk : Bool} {i : Instr} (h : decodeOp op blk = .ok i) :
    i.format = .cmd ∧ (encode i).toNat = op + if op = 4 ∧ blk = true then 256 else 0 := by
  unfold decodeOp at h
  split at h
  case h_4 => cases h; cases blk <;> exact ⟨rfl, rfl⟩
  case h_10 => cases h
  all_goals cases h; exact ⟨rfl, rfl⟩

/-- A word that passes the reserved check is its operation's number and `BLK` (R81). -/
theorem toNat_of_not_reserved {w : Word} (h : ¬CmdReserved w) :
    w.toNat = w.toNat % 256 + if w.toNat % 256 = 4 ∧ cmdBlk w = true then 256 else 0 := by
  have hw := w.isLt
  simp only [CmdReserved] at h
  simp only [cmdBlk_iff]
  split <;> omega

theorem decode_cmd_ok {w : Word} {i : Instr} (h : decode .cmd w = .ok i) : i.format = .cmd ∧ encode i = w := by
  by_cases hres : CmdReserved w
  · rw [decode_cmd_of_reserved hres] at h
    cases h
  · rw [decode_cmd_of_not_reserved hres] at h
    obtain ⟨hfmt, henc⟩ := decodeOp_ok h
    exact ⟨hfmt, BitVec.eq_of_toNat_eq (henc.trans (toNat_of_not_reserved hres).symm)⟩

/-! The request format (R90). -/

theorem miiPa_encodeMii (pa ri : BitVec 5) (wr : Bool) : miiPa (encodeMii pa ri wr) = pa := by
  apply BitVec.eq_of_toNat_eq
  have hpa := pa.isLt
  have hri := ri.isLt
  rw [miiPa, BitVec.extractLsb'_toNat, toNat_encodeMii, Nat.shiftRight_eq_div_pow]
  cases wr <;> simp <;> omega

theorem miiRi_encodeMii (pa ri : BitVec 5) (wr : Bool) : miiRi (encodeMii pa ri wr) = ri := by
  apply BitVec.eq_of_toNat_eq
  have hri := ri.isLt
  rw [miiRi, BitVec.extractLsb'_toNat, toNat_encodeMii, Nat.shiftRight_eq_div_pow]
  cases wr <;> simp <;> omega

theorem miiWr_encodeMii (pa ri : BitVec 5) (wr : Bool) : miiWr (encodeMii pa ri wr) = wr := by
  rw [miiWr, BitVec.getLsbD, toNat_encodeMii, Nat.testBit_eq_decide_div_mod_eq]
  cases wr <;> simp <;> omega

theorem miiBusy_encodeMii (pa ri : BitVec 5) (wr : Bool) : miiBusy (encodeMii pa ri wr) = true := by
  rw [miiBusy, BitVec.getLsbD, toNat_encodeMii, Nat.testBit_eq_decide_div_mod_eq]
  cases wr <;> simp <;> omega

theorem decodeMii_encodeMii (pa ri : BitVec 5) (wr : Bool) :
    decodeMii (encodeMii pa ri wr) = .ok (if wr then .miiWrite pa ri else .miiRead pa ri) := by
  rw [decodeMii, miiBusy_encodeMii, miiWr_encodeMii, miiPa_encodeMii, miiRi_encodeMii]
  cases wr <;> rfl

/-- The bits of a request word that are not reserved (R90). -/
theorem getLsbD_requestMask {b : Nat} (hb : b < 32) :
    (0x0000FFC3#32).getLsbD b = (decide (11 ≤ b ∧ b < 16) || decide (6 ≤ b ∧ b < 11) || decide (b = 1) || decide (b = 0)) :=
  forall_bit (P := fun b => (0x0000FFC3#32).getLsbD b =
    (decide (11 ≤ b ∧ b < 16) || decide (6 ≤ b ∧ b < 11) || decide (b = 1) || decide (b = 0))) (by decide) hb

/-- A field of `n` bits taken from a word at `k` and put back there. -/
theorem getLsbD_field (w : Word) (k n : Nat) {b : Nat} (hb : b < 32) :
    ((w.extractLsb' k n).setWidth 32 <<< k).getLsbD b = (decide (k ≤ b ∧ b < k + n) && w.getLsbD b) := by
  rw [BitVec.getLsbD_shiftLeft, BitVec.getLsbD_setWidth, BitVec.getLsbD_extractLsb']
  by_cases hk : k ≤ b
  · have hn : b - k < n ↔ b < k + n := by omega
    simp [hb, hk, hn, show k + (b - k) = b by omega, show b - k < 32 by omega]
  · simp [hk]

/-- A bit taken from a word and put back where it was. -/
theorem getLsbD_bitAt_getLsbD (w : Word) {i : Nat} (hi : i < 32) (b : Nat) :
    (bitAt (w.getLsbD i) i).getLsbD b = (decide (b = i) && w.getLsbD b) := by
  rw [getLsbD_bitAt _ hi]
  by_cases h : b = i <;> simp [h]

theorem encodeMii_eq_bitAt (pa ri : BitVec 5) (wr : Bool) :
    encodeMii pa ri wr = (pa.setWidth 32 <<< 11) ||| (ri.setWidth 32 <<< 6) ||| bitAt wr 1 ||| bitAt true 0 := by
  cases wr <;> rfl

/-- A request word with `BUSY = 1` is made of its fields and its reserved bits (R90). -/
theorem encodeMii_fields {w : Word} (h : miiBusy w = true) :
    encodeMii (miiPa w) (miiRi w) (miiWr w) = w &&& 0x0000FFC3#32 := by
  rw [encodeMii_eq_bitAt, ← h]
  apply BitVec.eq_of_getLsbD_eq
  intro b hb
  simp only [miiPa, miiRi, miiWr, miiBusy, BitVec.getLsbD_or, BitVec.getLsbD_and, getLsbD_field w _ _ hb,
    getLsbD_bitAt_getLsbD w (by decide : 1 < 32), getLsbD_bitAt_getLsbD w (by decide : 0 < 32), getLsbD_requestMask hb]
  simp only [← Bool.and_or_distrib_right, Bool.and_comm]

theorem decode_miireq_ok {w : Word} {i : Instr} (h : decode .miireq w = .ok i) :
    i.format = .miireq ∧ encode i = w &&& 0x0000FFC3#32 := by
  rw [decode, decodeMii] at h
  split at h
  · rename_i hbusy
    have henc := encodeMii_fields hbusy
    cases hwr : miiWr w <;> rw [hwr] at h henc <;> cases h <;> exact ⟨rfl, henc⟩
  · cases h

/-- Decoding gives back the instruction a word was made for, in its own format (R80). -/
theorem decode_encode (i : Instr) : decode i.format (encode i) = .ok i := by
  cases i with
  | miiRead pa ri => exact decodeMii_encodeMii pa ri false
  | miiWrite pa ri => exact decodeMii_encodeMii pa ri true
  | receive block => cases block <;> rfl
  | _ => rfl

/-- Settles O1: the fields of an encoded word are the operands, and a word that decodes is put together from its fields again. -/
theorem decodeEncodeAgree : Obligations.DecodeEncodeAgree :=
  ⟨decode_encode, fun _ _ => decode_cmd_ok, fun _ _ => decode_miireq_ok⟩

/-- Settles O2: the words that decode are those their instructions encode to (the last has reserved bits at 1), the others fail the
check the vector names. -/
theorem vectorWordsDecode : Obligations.VectorWordsDecode := by
  refine ⟨decode_encode .initRxRing, decode_encode .initTxRing, decode_encode .send, decode_encode (.receive false),
    decode_encode (.receive true), decode_encode .pollRx, decode_encode .readPhy, decode_encode .writePhy, decode_encode .getMac,
    decode_encode .setMac, decode_cmd_of_illegal ?_ ?_, decode_cmd_of_illegal ?_ ?_, decode_cmd_of_illegal ?_ ?_,
    decode_cmd_of_reserved ?_, decode_cmd_of_reserved ?_, decode_cmd_of_reserved ?_, decode_cmd_of_reserved ?_,
    decode_encode (.miiRead 1#5 2#5), decode_encode (.miiWrite 1#5 0#5), decode_encode (.miiRead 31#5 31#5),
    decode_encode (.miiWrite 31#5 31#5), decode_encode (.miiRead 0#5 0#5), rfl⟩
  all_goals decide

end Sys2Proof
end

section
/-! PROOFS. A write to `CMD` and a turn of MIIENG run what the word decodes to, or refuse it (R21, R81, R141, R266). -/

namespace Sys2Proof.Machine
open Sys2Proof

/-- Settles O4: the turn listed is taken, and MIIENG's runs what `MII_REQ` decodes to. -/
theorem stepRunsDecodedRequest : Obligations.StepRunsDecodedRequest := by
  refine ⟨fun s ts i hi => ?_, fun _ _ _ => rfl⟩
  show miiengStep { s with sched := ts } = _
  rw [miiengStep, hi]

/-! A command is refused because its unit is busy, refused because the MAC is enabled, or accepted (R81, R266). -/

theorem exec_busy {i : Instr} {u : DrcUnit} {s : State} (hu : unitOf i = some u) (h : s.busy u = true) :
    exec i s = .next (s.refuse .unitBusy) := by
  cases i <;> cases hu <;> exact if_pos h

theorem exec_not_allowed {i : Instr} {u : DrcUnit} {s : State} (hu : unitOf i = some u) (h : s.busy u = false)
    (hi : i = .initRxRing ∨ i = .initTxRing) (hmac : s.macEn = true) : exec i s = .next (s.refuse .notAllowed) := by
  obtain rfl | rfl := hi <;> cases hu
  · simp [exec, execInitRxRing, h, hmac]
  · simp [exec, execInitTxRing, h, hmac]

theorem cmdFault_of_withMem {s t : State} (h : t = s.withMem t.mem) : t.cmdFault = s.cmdFault := by
  rw [h, State.withMem_cmdFault]

theorem execInitRxRing_accepts {s : State} (h : s.busy .rxu = false) (hmac : s.macEn = false) :
    ∃ t, execInitRxRing s = .next t ∧ t.cmdFault = .noFault := by
  simp only [execInitRxRing, h, hmac, Bool.false_eq_true, if_false]
  split
  · exact ⟨_, rfl, cmdFault_of_withMem (State.initDescs_mem ‹_›).1⟩
  · exact ⟨_, rfl, rfl⟩

theorem execInitTxRing_accepts {s : State} (h : s.busy .txu = false) (hmac : s.macEn = false) :
    ∃ t, execInitTxRing s = .next t ∧ t.cmdFault = .noFault := by
  simp only [execInitTxRing, h, hmac, Bool.false_eq_true, if_false]
  split
  · exact ⟨_, rfl, cmdFault_of_withMem (State.initDescs_mem ‹_›).1⟩
  · exact ⟨_, rfl, rfl⟩

theorem execPollRx_accepts {s : State} (h : s.busy .rxu = false) : ∃ t, execPollRx s = .next t ∧ t.cmdFault = .noFault := by
  simp only [execPollRx, h, Bool.false_eq_true, if_false]
  split <;> exact ⟨_, rfl, rfl⟩

theorem execSetMac_accepts {s : State} (h : s.busy .miu = false) : ∃ t, execSetMac s = .next t ∧ t.cmdFault = .noFault := by
  simp only [execSetMac, h, Bool.false_eq_true, if_false]
  split <;> exact ⟨_, rfl, rfl⟩

theorem execGetMac_accepts {s : State} (h : s.busy .miu = false) : ∃ t, execGetMac s = .next t ∧ t.cmdFault = .noFault := by
  simp only [execGetMac, h, Bool.false_eq_true, if_false]
  split
  · rename_i t ht
    obtain ⟨-, hmem, -⟩ := State.storeBytes_some ht
    exact ⟨_, rfl, cmdFault_of_withMem hmem⟩
  · exact ⟨_, rfl, rfl⟩

theorem exec_accepts {i : Instr} {u : DrcUnit} {s : State} (hu : unitOf i = some u) (h : s.busy u = false)
    (hallowed : ¬((i = .initRxRing ∨ i = .initTxRing) ∧ s.macEn = true)) :
    ∃ t, exec i s = .next t ∧ t.cmdFault = .noFault := by
  cases i <;> cases hu
  case initRxRing => exact execInitRxRing_accepts h (by simpa using hallowed)
  case initTxRing => exact execInitTxRing_accepts h (by simpa using hallowed)
  case pollRx => exact execPollRx_accepts h
  case setMac => exact execSetMac_accepts h
  case getMac => exact execGetMac_accepts h
  case send => exact ⟨_, if_neg (by simp [h]), rfl⟩
  case receive => exact ⟨_, if_neg (by simp [h]), rfl⟩
  case readPhy => exact ⟨_, if_neg (by simp [h]), rfl⟩
  case writePhy => exact ⟨_, if_neg (by simp [h]), rfl⟩

/-! HOST's write to `CMD`. -/

theorem turnStep_host_command {w : Word} {i : Instr} (h : decode .cmd w = .ok i) (s : State) (q : List HostOp) :
    turnStep .host { s with hostQ := .regWrite 0x00 4 w :: q } = exec i { s with hostQ := q } := by
  show hostCommand w { s with hostQ := q } = _
  rw [hostCommand, h]

theorem turnStep_host_no_command {w : Word} {e : DecodeError} (h : decode .cmd w = .error e) (s : State) (q : List HostOp) :
    turnStep .host { s with hostQ := .regWrite 0x00 4 w :: q } = .next { s with hostQ := q, cmdFault := e.reason } := by
  show hostCommand w { s with hostQ := q } = _
  rw [hostCommand, h]
  rfl

/-- Settles O5: the decoder rejects for the first two reasons, in that order, and a command that decodes is refused for the other two or
accepted. -/
theorem refusalChangesOnlyCmdFault : Obligations.RefusalChangesOnlyCmdFault := by
  intro s q w reserved illegal refusedWith
  refine ⟨fun hres => turnStep_host_no_command (decode_cmd_of_reserved hres) s q,
    fun hres hill => turnStep_host_no_command (decode_cmd_of_illegal hres hill) s q, fun i u hi hu => ?_⟩
  simp only [refusedWith, turnStep_host_command hi]
  exact ⟨fun h => exec_busy (s := { s with hostQ := q }) hu h, fun h => exec_not_allowed (s := { s with hostQ := q }) hu h,
    fun h => exec_accepts (s := { s with hostQ := q }) hu h⟩

end Sys2Proof.Machine
end

section
/-! PROOFS. `INITIALIZE` (R95): what the two initialisations write (R113, R114), what `SET_MAC` takes (R144), and HOST's accesses one after
another from reset to `Ready` (R296 to R300). -/

namespace Sys2Proof.Machine
open Sys2Proof

/-! The rings as the initialisations write them. -/

/-- The words of every descriptor of a ring of `n` at `dbase`, buffers of `cap` bytes at `bbase`, are those R113 and R114 write. -/
def RingWritten (m : Memory) (dbase bbase : Word) (n cap : Nat) (w0 w1 : Word) : Prop :=
  ∀ i, i < n → m.wordAt (w0Addr (descAddr dbase i)).toNat = w0
    ∧ m.wordAt (w1Addr (descAddr dbase i)).toNat = w1
    ∧ m.wordAt (w2Addr (descAddr dbase i)).toNat = bufAddr bbase cap i
    ∧ m.wordAt (w3Addr (descAddr dbase i)).toNat = descAddr dbase ((i + 1) % n)

theorem RingWritten.closed {m : Memory} {dbase bbase : Word} {n cap : Nat} {w0 w1 : Word}
    (h : RingWritten m dbase bbase n cap w0 w1) : RingClosed m dbase n := fun i hi =>
  have ⟨_, _, _, h3⟩ := h i hi
  h3

theorem RingWritten.bound {m : Memory} {dbase bbase : Word} {n cap : Nat} {w0 w1 : Word}
    (h : RingWritten m dbase bbase n cap w0 w1) : BuffersBound m dbase bbase n cap := fun i hi =>
  have ⟨_, _, h2, _⟩ := h i hi
  h2

/-- Every descriptor of the ring is owned as the first word written says (R40). -/
theorem RingWritten.own {m : Memory} {dbase bbase : Word} {n cap : Nat} {w0 w1 : Word}
    (h : RingWritten m dbase bbase n cap w0 w1) {i : Nat} (hi : i < n) :
    own (m.wordAt (w0Addr (descAddr dbase i)).toNat) = own w0 := by rw [(h i hi).1]

/-- Writes elsewhere leave the ring as it was. -/
theorem RingWritten.kept {m m' : Memory} {dbase bbase : Word} {n cap a k : Nat} {w0 w1 : Word}
    (h : RingWritten m dbase bbase n cap w0 w1) (ho : SameOutside m m' a k) (hend : dbase.toNat + 16 * n ≤ 4294967296)
    (hd : dbase.toNat + 16 * n ≤ a ∨ a + k ≤ dbase.toNat) : RingWritten m' dbase bbase n cap w0 w1 := by
  intro i hi
  have hi' := descAddr_toNat (base := dbase) (i := i) (by omega)
  obtain ⟨a0, a1, a2, a3⟩ := wordAddrs (d := descAddr dbase i) (by omega)
  rw [ho.wordAt (by omega), ho.wordAt (by omega), ho.wordAt (by omega), ho.wordAt (by omega)]
  exact h i hi

/-- The loop of R113 and R114 over a whole ring that is placed as R5 says. -/
theorem State.initDescs_ring {s : State} {dbase : Word} (bbase : Word) {n : Nat} (cap : Nat) (w0 w1 : Word)
    (hr : (dbase.toNat, 16 * n) ∈ s.par.regions) (ha : dbase.toNat % 4 = 0) (hend : dbase.toNat + 16 * n ≤ 4294967296)
    (hm : s.mem.wf = true) :
    ∃ m, s.initDescs dbase bbase n cap w0 w1 n = some (s.withMem m) ∧ m.wf = true
      ∧ SameOutside s.mem m dbase.toNat (16 * n) ∧ RingWritten m dbase bbase n cap w0 w1 := by
  obtain ⟨t, ht⟩ := State.initDescs_enabled (s := s) bbase n cap w0 w1 fun i hi => admits_desc_words hr ha hend hi
  obtain ⟨hmem, hwf⟩ := State.initDescs_mem ht
  obtain ⟨hout, hring⟩ := State.initDescs_some ht hend hm
  exact ⟨t.mem, hmem ▸ ht, hwf hm, hout, hring⟩

/-- `INIT_RX_RING` where it is accepted (R113). -/
theorem execInitRxRing_builds {s : State} (hw : s.par.wf = true) (hm : s.mem.wf = true) (hidle : s.rxu.state = .idle)
    (hmac : s.macEn = false) :
    ∃ m, execInitRxRing s = .next { s with cmdFault := .noFault, rxCur := s.par.rxdBase, rxResult := 0#32, rxCode := .ok, mem := m }
      ∧ m.wf = true ∧ SameOutside s.mem m s.par.rxdBase.toNat (16 * s.par.nRx)
      ∧ RingWritten m s.par.rxdBase s.par.rxbBase s.par.nRx s.par.capRx rxInitW0 (rxInitW1 s.par.capRx) := by
  obtain ⟨-, -, -, -, -, -, -, -, -, -, ha, -, hend, -⟩ := Params.wf_rings hw
  obtain ⟨m, hinit, hbuilt⟩ := State.initDescs_ring (s := s.accept) s.par.rxbBase (n := s.par.nRx) s.par.capRx rxInitW0
    (rxInitW1 s.par.capRx) (by simp [Params.regions]) ha hend hm
  refine ⟨m, ?_, hbuilt⟩
  have hstate : { s.rxu with state := .idle } = s.rxu := by rw [← hidle]
  have hinit' : s.accept.initRxDescs = some (s.accept.withMem m) := hinit
  rw [execInitRxRing, if_neg (by simp [State.busy, hidle]), if_neg (by simp [hmac]), hinit']
  show Host.Outcome.next { s with cmdFault := .noFault, rxCur := s.par.rxdBase, rxResult := 0#32, rxCode := .ok, mem := m,
                                  rxu := { s.rxu with state := .idle } } = _
  rw [hstate]

/-- `INIT_TX_RING` where it is accepted (R114). -/
theorem execInitTxRing_builds {s : State} (hw : s.par.wf = true) (hm : s.mem.wf = true) (hidle : s.txu.state = .idle)
    (hmac : s.macEn = false) :
    ∃ m, execInitTxRing s = .next { s with cmdFault := .noFault, txCur := s.par.txdBase, locked := true, txResult := 0#32,
                                           txCode := .ok, mem := m }
      ∧ m.wf = true ∧ SameOutside s.mem m s.par.txdBase.toNat (16 * s.par.nTx)
      ∧ RingWritten m s.par.txdBase s.par.txbBase s.par.nTx s.par.capTx txInitW0 txInitW1 := by
  obtain ⟨-, -, -, -, -, -, -, -, -, ha, -, hend, -⟩ := Params.wf_rings hw
  obtain ⟨m, hinit, hbuilt⟩ := State.initDescs_ring (s := s.accept) s.par.txbBase (n := s.par.nTx) s.par.capTx txInitW0 txInitW1
    (by simp [Params.regions]) ha hend hm
  refine ⟨m, ?_, hbuilt⟩
  have hstate : { s.txu with state := .idle } = s.txu := by rw [← hidle]
  have hinit' : s.accept.initTxDescs = some (s.accept.withMem m) := hinit
  rw [execInitTxRing, if_neg (by simp [State.busy, hidle]), if_neg (by simp [hmac]), hinit']
  show Host.Outcome.next { s with cmdFault := .noFault, txCur := s.par.txdBase, locked := true, txResult := 0#32, txCode := .ok,
                                  mem := m, txu := { s.txu with state := .idle } } = _
  rw [hstate]

/-! The address. -/

/-- Bytes written are read back whole. -/
theorem Memory.readBytes_writeBytes {m : Memory} (hm : m.wf = true) {a : Nat} (bs : List Byte)
    (ha : a + bs.length ≤ 4294967296) : (m.writeBytes a bs).readBytes a bs.length = bs := by
  refine List.ext_getElem (by simp) fun i _ hi => ?_
  rw [Memory.getElem_readBytes, Memory.read_writeBytes_inside hm bs ha hi]

/-- The bytes of a word that holds one byte, at bit `j`. -/
theorem extractLsb'_shiftLeft_byte (b : Byte) {j k : Nat} (hj : 8 ∣ j) (hk : 8 ∣ k) (hk32 : k < 32) :
    (b.setWidth 32 <<< j).extractLsb' k 8 = if k = j then b else 0#8 := by
  apply BitVec.eq_of_getLsbD_eq
  intro i hi
  rw [BitVec.getLsbD_extractLsb', BitVec.getLsbD_shiftLeft, BitVec.getLsbD_setWidth]
  obtain hlt | rfl | hgt := Nat.lt_trichotomy k j
  · simp [show k ≠ j by omega, show k + i < j by omega]
  · simp [hi, show k + i < 32 by omega, show i < 32 by omega]
  · rw [if_neg (by omega), BitVec.getLsbD_of_ge b _ (by omega)]
    simp

theorem extractLsb'_byte (b : Byte) {k : Nat} (hk : 8 ∣ k) (hk32 : k < 32) :
    (b.setWidth 32).extractLsb' k 8 = if k = 0 then b else 0#8 := by
  rw [← extractLsb'_shiftLeft_byte b (Nat.dvd_zero 8) hk hk32, BitVec.shiftLeft_zero]

/-- The address registers hold the six bytes they were loaded with, in order (R92, R144). -/
theorem macBytes_of_loaded (old : Word) (m0 m1 m2 m3 m4 m5 : Byte) :
    macBytes (macHiOf old m0 m1) (macLoOf m2 m3 m4 m5) = [m0, m1, m2, m3, m4, m5] := by
  have hmask : (0xFFFF0000#32).extractLsb' 8 8 = 0#8 ∧ (0xFFFF0000#32).extractLsb' 0 8 = 0#8 := by decide
  simp only [macBytes, macHiOf, macLoOf, BitVec.extractLsb'_or, BitVec.extractLsb'_and, hmask]
  simp [extractLsb'_shiftLeft_byte, extractLsb'_byte]

/-- `SET_MAC` where it is accepted (R144). -/
theorem execSetMac_loads {s : State} {m0 m1 m2 m3 m4 m5 : Byte} (hidle : s.busy .miu = false)
    (hload : s.loadBytes s.arg0 6 = some [m0, m1, m2, m3, m4, m5]) :
    execSetMac s =
      .next ({ s.accept with macHi := macHiOf s.macHi m0 m1, macLo := macLoOf m2 m3 m4 m5 }.finishMii 0#32 .ok) := by
  simp [execSetMac, hidle, hload]

/-! HOST's accesses one after another. -/

/-- HOST is to perform the accesses `ops`, in the turns `ts`. -/
def State.queued (s : State) (ops : List HostOp) (ts : List Turn) : State := { s with hostQ := ops, sched := ts }

/-- HOST has the next turn, and its first access is performed. -/
theorem run_host {s t : State} {op : HostOp} {q : List HostOp} {ts : List Turn}
    (h : hostStep (s.queued (op :: q) ts) = .next (t.queued q ts)) (k : Nat) :
    Host.Core.run core (k + 1) (s.queued (op :: q) (.host :: ts)) = Host.Core.run core k (t.queued q ts) := by
  have hstep : core.step (s.queued (op :: q) (.host :: ts)) = .next (t.queued q ts) := h
  simp only [Host.Core.run, hstep]

theorem hostStep_memWrite {s : State} {a : Word} {bs : List Byte} (h : s.par.mappedRange a.toNat bs.length = true)
    (q : List HostOp) (ts : List Turn) :
    hostStep (s.queued (.memWrite a bs :: q) ts) = .next ((s.withMem (s.mem.writeBytes a.toNat bs)).queued q ts) :=
  congrArg (enabledOr _) (State.storeBytes_of_mapped (s := s.queued q ts) h)

/-- HOST's write of a command's word runs the command. -/
theorem hostStep_command {i : Instr} (hi : i.format = .cmd) (s : State) (q : List HostOp) (ts : List Turn) :
    hostStep (s.queued (.regWrite 0x00 4 (encode i) :: q) ts) = exec i (s.queued q ts) :=
  turnStep_host_command (hi ▸ decode_encode i) (s.queued q ts) q

theorem statusWord_of_quiet {s : State} (hidle : s.unitsIdle) (hfault : s.syncFault = false) : s.statusWord = 0#32 := by
  obtain ⟨htxu, hrxu, hmiu⟩ := hidle
  rw [State.statusWord, htxu, hrxu, hmiu, hfault]
  decide

/-- A `WAIT` (R94) that finds nothing busy and nothing else in `STATUS`, HOST having read 0 before. -/
theorem hostStep_wait {s : State} (u : DrcUnit) (hidle : s.unitsIdle) (hfault : s.syncFault = false) (hrd : s.hostRd = 0#32)
    (q : List HostOp) (ts : List Turn) : hostStep (s.queued (.waitIdle u :: q) ts) = .next (s.queued q ts) := by
  have hu : (s.queued (.waitIdle u :: q) ts).busy u = false := by
    obtain ⟨htxu, hrxu, hmiu⟩ := hidle
    cases u <;> assumption
  have hstatus : (s.queued (.waitIdle u :: q) ts).statusWord = s.hostRd := (statusWord_of_quiet hidle hfault).trans hrd.symm
  show (if (s.queued (.waitIdle u :: q) ts).busy u = true then _ else _) = _
  rw [if_neg (by simp [hu]), hstatus]
  rfl

/-- HOST writes the word of a command that is done in one step, then waits for its unit (R94). -/
theorem run_command_wait {i : Instr} {u : DrcUnit} {s t : State} {q : List HostOp} {ts : List Turn} (hi : i.format = .cmd)
    (h : exec i (s.queued (.waitIdle u :: q) (.host :: ts)) = .next (t.queued (.waitIdle u :: q) (.host :: ts)))
    (hidle : t.unitsIdle) (hfault : t.syncFault = false) (hrd : t.hostRd = 0#32) (k : Nat) :
    Host.Core.run core (k + 2) (s.queued (.regWrite 0x00 4 (encode i) :: .waitIdle u :: q) (.host :: .host :: ts))
      = Host.Core.run core k (t.queued q ts) :=
  (run_host ((hostStep_command hi _ _ _).trans h) (k + 1)).trans (run_host (hostStep_wait u hidle hfault hrd q ts) k)

/-- The accesses of `MacAddressSet` (R296), the bytes laid out at `ptr` first. -/
def addressProgram (p : Params) (ptr : Word) : List HostOp :=
  [HostOp.memWrite ptr (chosenMac p)] ++ commandLine .setMac [ptr] ++ [HostOp.waitIdle .miu]

/-- The commands of `RingInit` (R297). -/
def ringProgram : List HostOp :=
  commandLine .initRxRing [] ++ [HostOp.waitIdle .rxu] ++ commandLine .initTxRing [] ++ [HostOp.waitIdle .txu]

/-- The base writes of `RingInit` (R297), `InterruptEnable` and `MacEnable` (R298). -/
def startProgram (p : Params) : List HostOp :=
  [.regWrite 0x44 4 p.rxdBase, .regWrite 0x40 4 p.txdBase, .regWrite 0x18 4 2#32, .regWrite 0x18 4 3#32]

/-- `INITIALIZE` is the three in turn (R95). -/
theorem initializeProgram_append (p : Params) (ptr : Word) (q : List HostOp) :
    initializeProgram p ptr ++ q = addressProgram p ptr ++ (ringProgram ++ (startProgram p ++ q)) := rfl

/-- After `MacAddressSet`: reset, the address in its registers and in memory. -/
def addressSet (p : Params) (m : Memory) (ptr hi lo : Word) : State :=
  { State.resetOf p m with arg0 := ptr, macHi := hi, macLo := lo }

/-- After `INIT_RX_RING`: the receive cursor at slot 0 too. -/
def rxRingBuilt (p : Params) (m : Memory) (ptr hi lo : Word) : State :=
  { addressSet p m ptr hi lo with rxCur := p.rxdBase }

/-- After `INIT_TX_RING`: the transmit cursor at slot 0 too. -/
def ringsBuilt (p : Params) (m : Memory) (ptr hi lo : Word) : State :=
  { rxRingBuilt p m ptr hi lo with txCur := p.txdBase }

/-- After `MacEnable`: the bases programmed, MACDMA's positions with them, both bits of `CTRL` set. -/
def macStarted (p : Params) (m : Memory) (ptr hi lo : Word) : State :=
  { ringsBuilt p m ptr hi lo with
    rxBase := p.rxdBase, rxBaseSet := true, txBase := p.txdBase, txBaseSet := true, macEn := true, irqEn := true,
    dma := { (State.resetOf p m).dma with rxPtr := p.rxdBase, txPtr := p.txdBase } }

theorem hostStep_arg0 (p : Params) (m : Memory) (ptr : Word) (q : List HostOp) (ts : List Turn) :
    hostStep ((State.resetOf p m).queued (.regWrite 0x04 4 ptr :: q) ts) = .next ((addressSet p m ptr 0#32 0#32).queued q ts) :=
  rfl

/-- `SET_MAC` with the bytes laid out where `ARG0` says. -/
theorem exec_setMac_addressSet {p : Params} {m : Memory} {ptr : Word} {m0 m1 m2 m3 m4 m5 : Byte}
    (hmap : p.mappedRange ptr.toNat 6 = true) (hread : m.readBytes ptr.toNat 6 = [m0, m1, m2, m3, m4, m5])
    (q : List HostOp) (ts : List Turn) :
    exec .setMac ((addressSet p m ptr 0#32 0#32).queued q ts)
      = .next ((addressSet p m ptr (macHiOf 0#32 m0 m1) (macLoOf m2 m3 m4 m5)).queued q ts) := by
  have hload := State.loadBytes_of_mapped (s := (addressSet p m ptr 0#32 0#32).queued q ts) (a := ptr) hmap
  exact execSetMac_loads rfl (hload.trans (congrArg some hread))

theorem run_addressProgram {p : Params} {m : Memory} {ptr : Word} (hm : m.wf = true) (hmap : p.mappedRange ptr.toNat 6 = true)
    (q : List HostOp) (ts : List Turn) (k : Nat) :
    ∃ m' hi lo, m'.wf = true ∧ macBytes hi lo = chosenMac p
      ∧ Host.Core.run core (k + 4) ((State.resetOf p m).queued (addressProgram p ptr ++ q) (List.replicate 4 Turn.host ++ ts))
        = Host.Core.run core k ((addressSet p m' ptr hi lo).queued q ts) := by
  obtain ⟨m0, m1, m2, m3, m4, m5, hmac⟩ : ∃ m0 m1 m2 m3 m4 m5, chosenMac p = [m0, m1, m2, m3, m4, m5] := ⟨_, _, _, _, _, _, rfl⟩
  have hend : ptr.toNat + 6 ≤ 4294967296 := (Params.mappedRange_le hmap).resolve_left (by decide)
  have hread : (m.writeBytes ptr.toNat [m0, m1, m2, m3, m4, m5]).readBytes ptr.toNat 6 = [m0, m1, m2, m3, m4, m5] :=
    Memory.readBytes_writeBytes hm [m0, m1, m2, m3, m4, m5] hend
  rw [addressProgram, hmac]
  refine ⟨_, _, _, Memory.wf_writeBytes (a := ptr.toNat) hm [m0, m1, m2, m3, m4, m5] (.inr hend),
    macBytes_of_loaded 0#32 m0 m1 m2 m3 m4 m5, ?_⟩
  exact (run_host (hostStep_memWrite hmap _ _) _).trans ((run_host (hostStep_arg0 _ _ _ _ _) _).trans
    (run_command_wait (i := .setMac) rfl (exec_setMac_addressSet hmap hread _ _) ⟨rfl, rfl, rfl⟩ rfl rfl k))

theorem run_ringProgram {p : Params} {m : Memory} (ptr hi lo : Word) (hw : p.wf = true) (hm : m.wf = true)
    (q : List HostOp) (ts : List Turn) (k : Nat) :
    ∃ m', RingWritten m' p.rxdBase p.rxbBase p.nRx p.capRx rxInitW0 (rxInitW1 p.capRx)
      ∧ RingWritten m' p.txdBase p.txbBase p.nTx p.capTx txInitW0 txInitW1
      ∧ Host.Core.run core (k + 4) ((addressSet p m ptr hi lo).queued (ringProgram ++ q) (List.replicate 4 Turn.host ++ ts))
        = Host.Core.run core k ((ringsBuilt p m' ptr hi lo).queued q ts) := by
  obtain ⟨-, -, -, -, -, -, -, -, -, -, -, -, hend, -⟩ := Params.wf_rings hw
  obtain ⟨m1, hrx, hm1, -, hrxRing⟩ := execInitRxRing_builds (s := (addressSet p m ptr hi lo).queued
    (.waitIdle .rxu :: .regWrite 0x00 4 (encode .initTxRing) :: .waitIdle .txu :: q) (.host :: .host :: .host :: ts)) hw hm rfl rfl
  obtain ⟨m2, htx, -, hout, htxRing⟩ := execInitTxRing_builds
    (s := (rxRingBuilt p m1 ptr hi lo).queued (.waitIdle .txu :: q) (.host :: ts)) hw hm1 rfl rfl
  refine ⟨m2, hrxRing.kept hout hend (Params.wf_arrays hw).symm, htxRing, ?_⟩
  exact (run_command_wait (i := .initRxRing) (t := rxRingBuilt p m1 ptr hi lo) rfl hrx ⟨rfl, rfl, rfl⟩ rfl rfl (k + 2)).trans
    (run_command_wait (i := .initTxRing) (t := ringsBuilt p m2 ptr hi lo) rfl htx ⟨rfl, rfl, rfl⟩ rfl rfl k)

/-- The last four writes reach no memory and are performed whatever the rings hold. -/
theorem run_startProgram (p : Params) (m : Memory) (ptr hi lo : Word) (q : List HostOp) (ts : List Turn) (k : Nat) :
    Host.Core.run core (k + 4) ((ringsBuilt p m ptr hi lo).queued (startProgram p ++ q) (List.replicate 4 Turn.host ++ ts))
      = Host.Core.run core k ((macStarted p m ptr hi lo).queued q ts) := rfl

theorem macStarted_ready {p : Params} {m : Memory} (ptr hi lo : Word) (q : List HostOp) (ts : List Turn)
    (hrx : RingWritten m p.rxdBase p.rxbBase p.nRx p.capRx rxInitW0 (rxInitW1 p.capRx))
    (htx : RingWritten m p.txdBase p.txbBase p.nTx p.capTx txInitW0 txInitW1) :
    Ready ((macStarted p m ptr hi lo).queued q ts) :=
  ⟨rfl, rfl, rfl, rfl, rfl, rfl, ⟨htx.closed, hrx.closed, htx.bound, hrx.bound⟩, fun _ hi => hrx.own hi, fun _ hi => htx.own hi,
    rfl, rfl, rfl, rfl, rfl, ⟨rfl, rfl, rfl⟩, rfl⟩

/-- Settles O60: from reset through the three parts of `INITIALIZE`, each at its own states. -/
theorem initializeReachesReady : Obligations.InitializeReachesReady := by
  intro p m ptr q ts hw hm hmap
  obtain ⟨m1, hi, lo, hm1, hmac, haddress⟩ := run_addressProgram hm hmap (ringProgram ++ (startProgram p ++ q))
    (List.replicate 4 Turn.host ++ (List.replicate 4 Turn.host ++ ts)) 8
  obtain ⟨m2, hrx, htx, hrings⟩ := run_ringProgram ptr hi lo hw hm1 (startProgram p ++ q) (List.replicate 4 Turn.host ++ ts) 4
  rw [initializeProgram_append]
  exact ⟨(macStarted p m2 ptr hi lo).queued q ts, haddress.trans (hrings.trans (run_startProgram p m2 ptr hi lo q ts 0)),
    macStarted_ready ptr hi lo q ts hrx htx, hmac, rfl, rfl, rfl, rfl⟩

end Sys2Proof.Machine
end

section
/-! PROOFS. Rings: what the two initialisations build, read off the descriptors by number (R113, R114, R223), and the cursor that goes
round a closed ring (R111, R112). -/

namespace Sys2Proof.Machine
open Sys2Proof

/-! The initialisations. -/

/-- The buffer length of R113 does not reach the bit beside it, so the two are added. -/
theorem rxInitW1_eq_add {cap : Nat} (h : cap < 2 ^ 30) : rxInitW1 cap = 0x40000000#32 + BitVec.ofNat 32 cap :=
  calc rxInitW1 cap = BitVec.ofNat 32 (0x40000000 ||| cap) := by rw [rxInitW1, BitVec.ofNat_or]
    _ = BitVec.ofNat 32 (0x40000000 + cap) := congrArg _ (Nat.two_pow_add_eq_or_of_lt h 1).symm
    _ = 0x40000000#32 + BitVec.ofNat 32 cap := BitVec.ofNat_add _ _

theorem State.rxu_idle_of_not_busy {s : State} (h : s.busy .rxu = false) : s.rxu.state = .idle := by
  simpa [State.busy_rxu] using h

theorem State.txu_idle_of_not_busy {s : State} (h : s.busy .txu = false) : s.txu.state = .idle := by
  simpa [State.busy_txu] using h

/-- Settles O6: what `INIT_RX_RING` builds, with `W1` as the sum of its bit and the buffer length, which R5 keeps below that bit. -/
theorem initRxRingBuildsTheRing : Obligations.InitRxRingBuildsTheRing := by
  intro s hw hm hidle hmac
  obtain ⟨-, -, -, -, -, hcap, -⟩ := Params.wf_rings hw
  obtain ⟨m, hexec, -, hout, hring⟩ := execInitRxRing_builds hw hm (State.rxu_idle_of_not_busy hidle) hmac
  rw [rxInitW1_eq_add (by omega)] at hring
  exact ⟨_, hexec, hring, hout, rfl⟩

/-- Settles O7: what `INIT_TX_RING` builds. -/
theorem initTxRingBuildsTheRing : Obligations.InitTxRingBuildsTheRing := by
  intro s hw hm hidle hmac
  obtain ⟨m, hexec, -, hout, hring⟩ := execInitTxRing_builds hw hm (State.txu_idle_of_not_busy hidle) hmac
  exact ⟨_, hexec, hring, hout, rfl⟩

/-! The cursor. -/

/-- One advance (R112) from slot `i` is read from that slot's `W3`. -/
theorem RingClosed.loadW3 {s : State} {base : Word} {n i : Nat} (h : RingClosed s.mem base n) (hi : i < n)
    (ha : s.admitsWord (w3Addr (descAddr base i)) = true) :
    s.loadW3 (descAddr base i) = some (descAddr base ((i + 1) % n)) := by
  rw [State.loadW3, State.loadWord_of_admits ha, h i hi]

/-- Every slot of the ring can be read, so a cursor never leaves it. -/
theorem RingClosed.advance {s : State} {base : Word} {n : Nat} (h : RingClosed s.mem base n)
    (ha : ∀ i, i < n → s.admitsWord (w3Addr (descAddr base i)) = true) (m : Nat) {i : Nat} (hi : i < n) :
    s.advance m (descAddr base i) = some (descAddr base ((i + m) % n)) := by
  induction m generalizing i with
  | zero => rw [State.advance, Nat.add_zero, Nat.mod_eq_of_lt hi]
  | succ m ih =>
    have hslot : (i + 1) % n < n := Nat.mod_lt _ (Nat.zero_lt_of_lt hi)
    rw [State.advance, h.loadW3 hi (ha i hi), Option.bind_some, ih hslot, Nat.mod_add_mod, Nat.add_right_comm, Nat.add_assoc]

/-- Settles O8: `m` advances by induction, and `n` of them add nothing modulo `n`. -/
theorem cursorAdvancesModuloRingSize : Obligations.CursorAdvancesModuloRingSize := by
  intro s base n hclosed ha i hi
  refine ⟨fun m => hclosed.advance ha m hi, ?_⟩
  rw [hclosed.advance ha n hi, Nat.add_mod_right, Nat.mod_eq_of_lt hi]

end Sys2Proof.Machine
end

section
/-! PROOFS. The PHY commands step by step, MIIENG's access, and the address registers (R131 to R145). -/

namespace Sys2Proof.Machine
open Sys2Proof

/-! The words MIU and MIIENG build, as numbers (R82, R90, R92). -/

/-- A word whose low `k` bits are 0 and a word of `k` bits share no bit, so they are added. -/
theorem toNat_or_low {x y : Word} (k : Nat) (hx : x.toNat % 2 ^ k = 0) (hy : y.toNat < 2 ^ k) :
    (x ||| y).toNat = x.toNat + y.toNat := by
  obtain ⟨c, hc⟩ := Nat.dvd_of_mod_eq_zero hx
  rw [BitVec.toNat_or, hc, Nat.two_pow_add_eq_or_of_lt hy]

/-- What is left of a number under the mask of the `n` bits from bit `k` up. -/
theorem and_fieldMask (w k n : Nat) : w &&& (2 ^ n - 1) <<< k = w / 2 ^ k % 2 ^ n * 2 ^ k := by
  apply Nat.eq_of_testBit_eq
  intro i
  simp only [Nat.testBit_and, Nat.testBit_shiftLeft, Nat.testBit_two_pow_sub_one, Nat.testBit_mul_two_pow,
    Nat.testBit_mod_two_pow, Nat.testBit_div_two_pow]
  by_cases hk : k ≤ i
  · simp [hk, Bool.and_comm]
  · simp [hk]

theorem toNat_and_high (w : Word) : (w &&& 0xFFFF0000#32).toNat = w.toNat / 65536 * 65536 := by
  rw [BitVec.toNat_and, show (0xFFFF0000#32).toNat = (2 ^ 16 - 1) <<< 16 from rfl, and_fieldMask]
  omega

theorem toNat_and_midField (w : Word) : (w &&& 0x3C#32).toNat = w.toNat / 4 % 16 * 4 := by
  rw [BitVec.toNat_and, show (0x3C#32).toNat = (2 ^ 4 - 1) <<< 2 from rfl, and_fieldMask]
  rfl

/-- The reserved bits of the request word are two fields (R90). -/
theorem toNat_reservedBits (w : Word) :
    (w &&& 0xFFFF003C#32).toNat = w.toNat / 65536 * 65536 + w.toNat / 4 % 16 * 4 := by
  rw [show 0xFFFF003C#32 = 0xFFFF0000#32 ||| 0x3C#32 from rfl, BitVec.and_or_distrib_left,
    toNat_or_low 16 (by rw [toNat_and_high]; omega) (by rw [toNat_and_midField]; omega), toNat_and_high, toNat_and_midField]

theorem encodeMii_leaves_reserved (pa ri : BitVec 5) (wr : Bool) : 0xFFFF003C#32 &&& encodeMii pa ri wr = 0#32 := by
  revert pa ri wr; decide

/-- The request word is the reserved bits it stands over and the fields written (R90, R133). -/
theorem toNat_requestWord (old : Word) (pa ri : BitVec 5) (wr : Bool) :
    (requestWord old pa ri wr).toNat = old.toNat / 65536 * 65536 + pa.toNat * 2048 + ri.toNat * 64
      + old.toNat / 4 % 16 * 4 + (if wr then 2 else 0) + 1 := by
  have hdisjoint : (old &&& 0xFFFF003C#32) &&& encodeMii pa ri wr = 0#32 := by
    rw [BitVec.and_assoc, encodeMii_leaves_reserved, BitVec.and_zero]
  rw [requestWord, ← BitVec.add_eq_or_of_and_eq_zero _ _ hdisjoint, BitVec.toNat_add_of_and_eq_zero hdisjoint,
    toNat_reservedBits, toNat_encodeMii]
  omega

theorem getLsbD_clearBusy (w : Word) (b : Nat) : (clearBusy w).getLsbD b = (w.getLsbD b && decide (b ≠ 0)) := by
  by_cases hb : b < 32
  · rw [clearBusy, BitVec.getLsbD_and,
      forall_bit (P := fun b => (0xFFFFFFFE#32).getLsbD b = decide (b ≠ 0)) (by decide) hb]
  · rw [BitVec.getLsbD_of_ge _ _ (by omega), BitVec.getLsbD_of_ge w _ (by omega), Bool.false_and]

theorem miiPa_toNat (w : Word) : (miiPa w).toNat = w.toNat / 2048 % 32 := by
  rw [miiPa, BitVec.extractLsb'_toNat, Nat.shiftRight_eq_div_pow]

theorem toNat_shiftedByte (b : Byte) {j : Nat} (hj : j ≤ 24) : (b.setWidth 32 <<< j).toNat = b.toNat * 2 ^ j := by
  have hpow : b.toNat * 2 ^ j < 2 ^ 8 * 2 ^ 24 :=
    Nat.mul_lt_mul_of_lt_of_le b.isLt (Nat.pow_le_pow_right (by decide) hj) (by decide)
  rw [BitVec.toNat_shiftLeft, BitVec.toNat_setWidth_of_le (by decide), Nat.shiftLeft_eq, Nat.mod_eq_of_lt (by omega)]

theorem toNat_lowByte (b : Byte) : (b.setWidth 32).toNat = b.toNat := BitVec.toNat_setWidth_of_le (by decide)

theorem toNat_macHiOf (old : Word) (m0 m1 : Byte) :
    (macHiOf old m0 m1).toNat = old.toNat / 65536 * 65536 + m0.toNat * 256 + m1.toNat := by
  have h0 := m0.isLt
  have h1 := m1.isLt
  have hhigh := toNat_and_high old
  have hbyte := toNat_shiftedByte m0 (j := 8) (by decide)
  have hupper := toNat_or_low (x := old &&& 0xFFFF0000#32) (y := m0.setWidth 32 <<< 8) 16 (by omega) (by omega)
  rw [macHiOf, toNat_or_low 8 (by omega) (by rw [toNat_lowByte]; omega), toNat_lowByte]
  omega

theorem toNat_macLoOf (m2 m3 m4 m5 : Byte) :
    (macLoOf m2 m3 m4 m5).toNat = m2.toNat * 16777216 + m3.toNat * 65536 + m4.toNat * 256 + m5.toNat := by
  have h3 := m3.isLt
  have h4 := m4.isLt
  have h5 := m5.isLt
  have e2 := toNat_shiftedByte m2 (j := 24) (by decide)
  have e3 := toNat_shiftedByte m3 (j := 16) (by decide)
  have e4 := toNat_shiftedByte m4 (j := 8) (by decide)
  have htwo := toNat_or_low (x := m2.setWidth 32 <<< 24) (y := m3.setWidth 32 <<< 16) 24 (by omega) (by omega)
  have hthree := toNat_or_low (x := m2.setWidth 32 <<< 24 ||| m3.setWidth 32 <<< 16) (y := m4.setWidth 32 <<< 8) 16
    (by omega) (by omega)
  rw [macLoOf, toNat_or_low 8 (by omega) (by rw [toNat_lowByte]; omega), toNat_lowByte]
  omega

theorem toNat_extractByte (w : Word) (k : Nat) : (w.extractLsb' k 8).toNat = w.toNat / 2 ^ k % 256 := by
  rw [BitVec.extractLsb'_toNat, Nat.shiftRight_eq_div_pow]

/-! The commands for the PHY are accepted. -/

/-- Settles O16: the operands are the low bits of the argument registers (R82). -/
theorem phyCommandsAreAccepted : Obligations.PhyCommandsAreAccepted := by
  intro s hidle
  have hfree : ¬s.busy .miu = true := by simp [hidle]
  refine ⟨⟨s.phyAddrOperand, s.phyRegOperand, if_neg hfree, ?_, ?_⟩,
    ⟨s.phyAddrOperand, s.phyRegOperand, s.phyValueOperand, if_neg hfree, ?_, ?_, ?_⟩⟩
  all_goals simp [State.phyAddrOperand, State.phyRegOperand, State.phyValueOperand]

/-! The steps of MIU. -/

/-- A poll in either wait that finds the engine busy fails (R132, R135). -/
theorem miuStep_poll {s : State} (hwait : s.miu.state = .wait1 ∨ s.miu.state = .wait2) (hbusy : s.miiReq.getLsbD 0 = true) :
    miuStep s = .next s.pollFailed := by
  obtain h | h := hwait
  · rw [miuStep, h]
    exact congrArg _ (if_pos hbusy)
  · rw [miuStep, h]
    exact congrArg _ (if_pos hbusy)

theorem miuStep_wait1_free {s : State} (h : s.miu.state = .wait1) (hfree : s.miiReq.getLsbD 0 = false) :
    miuStep s = .next { s with miu := { s.miu with polls := 0, state := .req } } := by
  rw [miuStep, h]
  exact congrArg _ (if_neg (Bool.eq_false_iff.1 hfree))

theorem miuStep_req {s : State} (h : s.miu.state = .req) :
    miuStep s = .next { s with miiReq := requestWord s.miiReq s.miu.pa s.miu.ri s.miu.wr,
                               miu := { s.miu with state := if s.miu.wr then .data else .wait2 } } := by
  rw [miuStep, h]; rfl

theorem miuStep_data {s : State} (h : s.miu.state = .data) :
    miuStep s = .next { s with miiData := s.miu.val, miu := { s.miu with state := .wait2 } } := by
  rw [miuStep, h]; rfl

theorem miuStep_wait2_free {s : State} (h : s.miu.state = .wait2) (hfree : s.miiReq.getLsbD 0 = false) :
    miuStep s = .next { s with miu := { s.miu with state := if s.miu.wr then .done else .read } } := by
  rw [miuStep, h]
  exact congrArg _ (if_neg (Bool.eq_false_iff.1 hfree))

theorem miuStep_read {s : State} (h : s.miu.state = .read) :
    miuStep s = .next { s with miu := { s.miu with val := s.miiData, state := .done } } := by
  rw [miuStep, h]; rfl

theorem miuStep_done {s : State} (h : s.miu.state = .done) :
    miuStep s = .next { s with miiResult := if s.miu.wr then 0#32 else s.miu.val.setWidth 32, miiCode := .ok,
                               miu := { s.miu with state := .idle } } := by
  rw [miuStep, h]; rfl

/-- With no bound on the waits a failed poll changes nothing (R139). -/
theorem State.pollFailed_of_unbounded {s : State} (h : s.par.waitBudget = none) : s.pollFailed = s := by
  rw [State.pollFailed, h]

/-- A failed poll with polls left counts (R140). -/
theorem State.pollFailed_of_left {s : State} {b : Nat} (h : s.par.waitBudget = some b) (hb : s.miu.polls + 1 < b) :
    s.pollFailed = { s with miu := { s.miu with polls := s.miu.polls + 1 } } := by
  rw [State.pollFailed, h]
  exact if_neg (Nat.not_le_of_lt hb)

/-- The last poll of the budget, failed, ends the command (R140). -/
theorem State.pollFailed_of_last {s : State} {b : Nat} (h : s.par.waitBudget = some b) (hb : b ≤ s.miu.polls + 1) :
    s.pollFailed = { s with miiResult := 0xFFFFFFFC#32, miiCode := .hwTimeout,
                            miu := { s.miu with polls := s.miu.polls + 1, state := .idle } } := by
  rw [State.pollFailed, h]
  exact if_pos hb

/-- Settles O17, state by state. -/
theorem phyProtocolRunsInOrder : Obligations.PhyProtocolRunsInOrder := by
  intro s
  refine ⟨fun h hbusy hnone => ?_, miuStep_wait1_free, fun h => ⟨_, miuStep_req h, toNat_requestWord _ _ _ _⟩, miuStep_data,
    fun h hbusy hnone => ?_, miuStep_wait2_free, miuStep_read, miuStep_done⟩
  · exact (miuStep_poll (.inl h) hbusy).trans (congrArg _ (State.pollFailed_of_unbounded hnone))
  · exact (miuStep_poll (.inr h) hbusy).trans (congrArg _ (State.pollFailed_of_unbounded hnone))

/-! The register-access engine. -/

theorem State.engineFree_iff (s : State) (pa : BitVec 5) :
    s.engineFree pa = true ↔
      s.par.phyResponds.getLsbD pa.toNat = true ∧ (s.par.miiDataRace = true ∨ s.miu.state ≠ .data) := by
  simp [State.engineFree, Params.phyRespondsAt]

/-- The access done, `BUSY` is 0 and the other bits of the request word stay (R141). -/
theorem clearBusy_bits (w : Word) :
    (clearBusy w).getLsbD 0 = false ∧ ∀ b, 1 ≤ b → (clearBusy w).getLsbD b = w.getLsbD b := by
  refine ⟨?_, fun b hb => ?_⟩
  · rw [getLsbD_clearBusy, decide_eq_false (by decide), Bool.and_false]
  · rw [getLsbD_clearBusy, decide_eq_true (by omega), Bool.and_true]

/-- Settles O19: the engine is free, and the value is the next free value. -/
theorem miiReadPerformsTheAccess : Obligations.MiiReadPerformsTheAccess := by
  intro s pa ri hresponds hhold
  have hfree := (s.engineFree_iff pa).2 ⟨hresponds, hhold⟩
  exact ⟨(s.fresh 0).setWidth 16, clearBusy s.miiReq, congrArg (enabledOr s) (if_pos hfree), clearBusy_bits s.miiReq⟩

/-- Settles O20: the engine is free, and it samples `MII_DATA` at this step. -/
theorem miiWritePerformsTheAccess : Obligations.MiiWritePerformsTheAccess := by
  intro s pa ri hresponds hhold
  have hfree := (s.engineFree_iff pa).2 ⟨hresponds, hhold⟩
  exact ⟨clearBusy s.miiReq, congrArg (enabledOr s) (if_pos hfree), clearBusy_bits s.miiReq⟩

theorem miiengStep_idle {s : State} (h : s.miiReq.getLsbD 0 = false) : miiengStep s = .next s := by
  have hidle : miiBusy s.miiReq = false := h
  simp [miiengStep, decode, decodeMii, hidle]

/-- Whichever operation the request word holds, an engine that is not free for its transceiver does nothing. -/
theorem miiengStep_held {s : State} (h : s.engineFree (miiPa s.miiReq) = false) : miiengStep s = .next s := by
  rw [miiengStep, decode, decodeMii]
  cases hbusy : miiBusy s.miiReq
  · rfl
  · cases hwr : miiWr s.miiReq
    · simp [exec, execMiiRead, h]
    · simp [exec, execMiiWrite, h]

/-- Settles O21: no request, or an engine that is not free for the request's transceiver. -/
theorem engineIsHeld : Obligations.EngineIsHeld := by
  rintro s (hidle | hsilent | hhold)
  · exact miiengStep_idle hidle
  · rw [← miiPa_toNat] at hsilent
    exact miiengStep_held (by simp [State.engineFree, Params.phyRespondsAt, hsilent])
  · exact miiengStep_held (by simp [State.engineFree, hhold])

/-! The address registers. -/

theorem Memory.readBytes_six (m : Memory) (a : Nat) :
    m.readBytes a 6 = [m.read a, m.read (a + 1), m.read (a + 2), m.read (a + 3), m.read (a + 4), m.read (a + 5)] := rfl

/-- `SET_MAC` with its six bytes mapped loads them (R144). -/
theorem execSetMac_of_mapped {s : State} (hidle : s.busy .miu = false) (hmap : s.par.mappedRange s.arg0.toNat 6 = true) :
    execSetMac s = .next ({ s.accept with
      macHi := macHiOf s.macHi (s.mem.read s.arg0.toNat) (s.mem.read (s.arg0.toNat + 1)),
      macLo := macLoOf (s.mem.read (s.arg0.toNat + 2)) (s.mem.read (s.arg0.toNat + 3)) (s.mem.read (s.arg0.toNat + 4))
        (s.mem.read (s.arg0.toNat + 5)) }.finishMii 0#32 .ok) :=
  execSetMac_loads hidle ((State.loadBytes_of_mapped hmap).trans (congrArg some (s.mem.readBytes_six s.arg0.toNat)))

/-- `GET_MAC` with its six bytes mapped writes the address there (R145). -/
theorem execGetMac_of_mapped {s : State} (hidle : s.busy .miu = false) (hmap : s.par.mappedRange s.arg0.toNat 6 = true) :
    execGetMac s =
      .next ((s.accept.withMem (s.mem.writeBytes s.arg0.toNat (macBytes s.macHi s.macLo))).finishMii 0#32 .ok) := by
  have hstore : s.accept.storeBytes s.arg0 (macBytes s.macHi s.macLo)
      = some (s.accept.withMem (s.mem.writeBytes s.arg0.toNat (macBytes s.macHi s.macLo))) := State.storeBytes_of_mapped hmap
  simp [execGetMac, hidle, hstore]

/-- A command done in one step leaves an idle MIU as it was (R25). -/
theorem State.miu_finished {s : State} (hidle : s.busy .miu = false) : { s.miu with state := .idle } = s.miu := by
  have hstate : s.miu.state = .idle := by simpa [State.busy_miu] using hidle
  rw [← hstate]

/-- Settles O22: the two registers are put together from the bytes, which share no bit. -/
theorem setMacLoadsAddressRegisters : Obligations.SetMacLoadsAddressRegisters := by
  intro s hidle hmap
  refine ⟨_, _, (execSetMac_of_mapped hidle hmap).trans ?_, toNat_macHiOf _ _ _, toNat_macLoOf _ _ _ _⟩
  rw [State.finishMii, State.accept, State.miu_finished hidle]

/-- Settles O23: the six bytes written are read back, and they are the fields of the registers. -/
theorem getMacStoresSixBytes : Obligations.GetMacStoresSixBytes := by
  intro s hm hidle hmap
  have hend : s.arg0.toNat + 6 ≤ 4294967296 := (Params.mappedRange_le hmap).resolve_left (by decide)
  have hread : ∀ i (hi : i < 6), (s.mem.writeBytes s.arg0.toNat (macBytes s.macHi s.macLo)).read (s.arg0.toNat + i)
      = (macBytes s.macHi s.macLo)[i] := fun i hi => Memory.read_writeBytes_inside hm (macBytes s.macHi s.macLo) hend hi
  have hlo := s.macLo.isLt
  refine ⟨_, execGetMac_of_mapped hidle hmap, ?_, fun x hx => Memory.read_writeBytes_outside _ _ hx,
    ?_, ?_, ?_, ?_, ?_, ?_⟩
  · rw [State.finishMii, State.accept, State.withMem, State.miu_finished hidle]
  · exact (congrArg _ (hread 0 (by decide))).trans (toNat_extractByte s.macHi 8)
  · refine (congrArg _ (hread 1 (by decide))).trans ((toNat_extractByte s.macHi 0).trans ?_)
    rw [Nat.pow_zero, Nat.div_one]
  · refine (congrArg _ (hread 2 (by decide))).trans ((toNat_extractByte s.macLo 24).trans ?_)
    omega
  · exact (congrArg _ (hread 3 (by decide))).trans (toNat_extractByte s.macLo 16)
  · exact (congrArg _ (hread 4 (by decide))).trans (toNat_extractByte s.macLo 8)
  · refine (congrArg _ (hread 5 (by decide))).trans ((toNat_extractByte s.macLo 0).trans ?_)
    rw [Nat.pow_zero, Nat.div_one]

/-- Settles O24: the registers give back the bytes they were loaded with, and memory the bytes written to it. -/
theorem getMacReturnsWhatSetMacTook : Obligations.GetMacReturnsWhatSetMacTook := by
  intro s p q hm hidle hp hq
  have hend : q.toNat + 6 ≤ 4294967296 := (Params.mappedRange_le hq).resolve_left (by decide)
  refine ⟨_, _, execSetMac_of_mapped (s := { s with arg0 := p }) hidle hp, execGetMac_of_mapped rfl hq, fun i hi => ?_⟩
  show (s.mem.writeBytes q.toNat (macBytes (macHiOf _ _ _) (macLoOf _ _ _ _))).read (q.toNat + i) = _
  rw [macBytes_of_loaded, ← Memory.readBytes_six, Memory.read_writeBytes_inside hm _ hend (by simpa using hi),
    Memory.getElem_readBytes]

end Sys2Proof.Machine
end

section
/-! PROOFS. A PHY command whose waits are bounded ends (R140, R314): what the other agents leave of MIU while it is busy, and how far each
turn of MIU brings the command. -/

namespace Sys2Proof.Machine
open Sys2Proof

/-! While MIU is busy its working registers are its own: a command for it is refused, and no other agent writes them (R36, R147). -/

/-- An agent that is not enabled changes nothing, so only its enabled step is in question. -/
theorem enabledOr_miu {s t : State} {o : Option State} (ho : ∀ u, o = some u → u.miu = s.miu) (h : enabledOr s o = .next t) :
    t.miu = s.miu := by
  obtain h | ⟨-, rfl⟩ := enabledOr_next h
  · exact ho t h
  · rfl

/-- The count of free values taken does not matter to MIU. -/
theorem enabledOr_spend_miu {s t : State} {o : Option State} {n : Nat} (ho : ∀ u, o = some u → u.miu = s.miu)
    (h : enabledOr s (o.map fun u => u.spend n) = .next t) : t.miu = s.miu := by
  refine enabledOr_miu (fun u hu => ?_) h
  obtain ⟨v, hv, rfl⟩ := Option.map_eq_some_iff.mp hu
  exact ho v hv

theorem miu_of_withMem {s t : State} (h : t = s.withMem t.mem) : t.miu = s.miu := by
  rw [h, State.withMem_miu]

theorem execInitRxRing_miu {s t : State} (h : execInitRxRing s = .next t) : t.miu = s.miu := by
  unfold execInitRxRing at h
  split at h
  · cases h; rfl
  · split at h
    · cases h; rfl
    · split at h
      · rename_i u hu
        cases h
        exact miu_of_withMem (s := s.accept) (t := u) (State.initDescs_mem hu).1
      · cases h; rfl

theorem execInitTxRing_miu {s t : State} (h : execInitTxRing s = .next t) : t.miu = s.miu := by
  unfold execInitTxRing at h
  split at h
  · cases h; rfl
  · split at h
    · cases h; rfl
    · split at h
      · rename_i u hu
        cases h
        exact miu_of_withMem (s := s.accept) (t := u) (State.initDescs_mem hu).1
      · cases h; rfl

theorem execSend_miu {s t : State} (h : execSend s = .next t) : t.miu = s.miu := by
  unfold execSend at h
  split at h <;> cases h <;> rfl

theorem execReceive_miu {block : Bool} {s t : State} (h : execReceive block s = .next t) : t.miu = s.miu := by
  unfold execReceive at h
  split at h <;> cases h <;> rfl

theorem execPollRx_miu {s t : State} (h : execPollRx s = .next t) : t.miu = s.miu := by
  unfold execPollRx at h
  split at h
  · cases h; rfl
  · split at h <;> cases h <;> rfl

/-- MIU busy, its own commands are refused, and the others are not about it (R81, R266). -/
theorem exec_miu_of_busy {i : Instr} {s t : State} (hbusy : s.busy .miu = true) (h : exec i s = .next t) : t.miu = s.miu := by
  cases i with
  | initRxRing => exact execInitRxRing_miu h
  | initTxRing => exact execInitTxRing_miu h
  | send => exact execSend_miu h
  | receive block => exact execReceive_miu h
  | pollRx => exact execPollRx_miu h
  | readPhy | writePhy | getMac | setMac =>
    rw [exec_busy (u := .miu) rfl hbusy] at h
    cases h; rfl
  | miiRead pa ri => rw [execMiiRead_frame h]
  | miiWrite pa ri => rw [execMiiWrite_frame h]

theorem State.ifMiuIdle_miu {s t : State} (h : t.miu = s.miu) : (s.ifMiuIdle t).miu = s.miu := by
  unfold State.ifMiuIdle
  split
  · rfl
  · exact h

/-- No register but `CMD` reaches MIU's working registers. -/
theorem State.writeReg_miu (s : State) (r : Reg) (v : Word) : (s.writeReg r v).miu = s.miu := by
  cases r with
  | txBase => simp only [State.writeReg, State.writeTxBase]; split <;> rfl
  | rxBase => simp only [State.writeReg, State.writeRxBase]; split <;> rfl
  | miiReq | miiData | macHi | macLo => exact State.ifMiuIdle_miu rfl
  | _ => rfl

theorem hostWrite_miu_of_busy {off width : Nat} {v : Word} {s t : State} (hbusy : s.busy .miu = true)
    (h : hostWrite off width v s = .next t) : t.miu = s.miu := by
  unfold hostWrite at h
  split at h
  · unfold hostCommand at h
    split at h
    · exact exec_miu_of_busy hbusy h
    · cases h; rfl
  · cases h; exact s.writeReg_miu _ v
  · cases h; rfl

theorem hostRead_miu (off width : Nat) (s : State) : (hostRead off width s).miu = s.miu := by
  unfold hostRead
  split <;> rfl

theorem hostStep_miu_of_busy {s t : State} (hbusy : s.busy .miu = true) (h : hostStep s = .next t) : t.miu = s.miu := by
  unfold hostStep at h
  split at h
  case h_1 => cases h; rfl
  case h_2 q _ => exact hostWrite_miu_of_busy (s := { s with hostQ := q }) hbusy h
  case h_3 q _ => cases h; exact hostRead_miu _ _ { s with hostQ := q }
  case h_4 q _ =>
    refine enabledOr_miu (fun u hu => ?_) h
    obtain ⟨-, hmem, -⟩ := State.storeBytes_some hu
    exact miu_of_withMem (s := { s with hostQ := q }) hmem
  case h_5 => split at h <;> cases h <;> rfl
  case h_6 => split at h <;> cases h <;> rfl

theorem irqStep_miu {s t : State} (h : irqStep s = some t) : t.miu = s.miu := by
  simp only [irqStep, Option.ite_none_right_eq_some, Option.some.injEq] at h
  obtain ⟨-, rfl⟩ := h
  unfold State.release
  split <;> rfl

theorem copyStep_miu {s t : State} (h : copyStep s = some t) : t.miu = s.miu := by
  simp only [copyStep, Option.ite_none_right_eq_some, Option.bind_eq_some_iff, Option.some.injEq] at h
  obtain ⟨-, u, hu, rfl⟩ := h
  obtain ⟨m, k, rfl⟩ := State.memCopy_withMem hu
  rfl

theorem dmaTransmit_miu {err : BitVec 14} {s t : State} (h : dmaTransmit err s = some t) : t.miu = s.miu := by
  simp only [dmaTransmit, Option.ite_none_right_eq_some, Option.bind_eq_some_iff, Option.some.injEq] at h
  obtain ⟨-, w0, -, -, w1, -, -, buf, -, bytes, -, u, hu, next, -, rfl⟩ := h
  obtain ⟨m, rfl⟩ := State.storeWord_withMem hu
  rfl

theorem dmaSuspend_miu {s t : State} (h : dmaSuspend s = some t) : t.miu = s.miu := by
  simp only [dmaSuspend, Option.ite_none_right_eq_some, Option.ite_none_left_eq_some, Option.bind_eq_some_iff,
    Option.some.injEq] at h
  obtain ⟨-, w0, -, -, rfl⟩ := h
  rfl

theorem dmaFill_miu {fl err : BitVec 14} {s t : State} (h : dmaFill fl err s = some t) : t.miu = s.miu := by
  simp only [dmaFill, State.fillDesc, Option.ite_none_right_eq_some, Option.bind_eq_some_iff, Option.some.injEq] at h
  obtain ⟨-, w0, -, -, w1, -, -, buf, -, u, hu, v, hv, next, -, rfl⟩ := h
  obtain ⟨m, rfl⟩ := State.storeBytes_withMem hu
  obtain ⟨m', rfl⟩ := State.storeWord_withMem hv
  rfl

theorem dmaArrive_miu {frame : List Byte} {s t : State} (h : dmaArrive frame s = some t) : t.miu = s.miu := by
  simp only [dmaArrive, Option.ite_none_right_eq_some, Option.some.injEq] at h
  obtain ⟨-, rfl⟩ := h
  rfl

/-- While MIU is busy only its own turn and a reset change its working registers. -/
theorem turnStep_miu_of_busy {u : Turn} {s t : State} (hown : u ≠ .miu) (hreset : u ≠ .reset) (hbusy : s.busy .miu = true)
    (h : turnStep u s = .next t) : t.miu = s.miu := by
  cases u with
  | miu => exact absurd rfl hown
  | reset => exact absurd rfl hreset
  | host => exact hostStep_miu_of_busy hbusy h
  | txu => rw [(txuStep_move h).frame]
  | rxu => rw [(rxuStep_move h).frame]
  | irq => exact enabledOr_miu (fun _ => irqStep_miu) h
  | copy => exact enabledOr_miu (fun _ => copyStep_miu) h
  | dmaTransmit => exact enabledOr_spend_miu (fun _ => dmaTransmit_miu) h
  | dmaSuspend => exact enabledOr_miu (fun _ => dmaSuspend_miu) h
  | dmaFill => exact enabledOr_spend_miu (fun _ => dmaFill_miu) h
  | dmaArrive => exact enabledOr_spend_miu (fun _ => dmaArrive_miu) h
  | miieng => rw [miiengStep_frame h]

/-! How much of a command is left. -/

/-- How many states of the protocol a command has yet to leave (R132 to R137). -/
def MiuState.ahead : MiuState → Nat
  | .wait1 => 6
  | .req => 5
  | .data => 4
  | .wait2 => 3
  | .read => 2
  | .done => 1
  | .idle | .stuck => 0

/-- A bound on the turns of MIU a command needs, at most `b` polls in each state. -/
def Miu.turnsLeft (m : Miu) (b : Nat) : Nat := m.state.ahead * (b + 1) + (b - m.polls)

/-- The command has come on from `m` to `m'`: it hangs in no access, and fewer turns are left. -/
def Miu.Advances (b : Nat) (m m' : Miu) : Prop := m'.state ≠ .stuck ∧ m'.turnsLeft b < m.turnsLeft b

/-- A state further on leaves fewer turns, whatever the count of polls becomes. -/
theorem Miu.Advances.to_state {b : Nat} {m m' : Miu} {st : MiuState} (st' : MiuState) (hs : m.state = st) (hs' : m'.state = st')
    (h : st' ≠ .stuck ∧ st'.ahead < st.ahead) : Miu.Advances b m m' := by
  subst hs hs'
  obtain ⟨hstuck, hahead⟩ := h
  have hstates : (m'.state.ahead + 1) * (b + 1) ≤ m.state.ahead * (b + 1) := Nat.mul_le_mul_right _ hahead
  rw [Nat.add_one_mul] at hstates
  refine ⟨hstuck, ?_⟩
  unfold Miu.turnsLeft
  omega

/-- One more poll of those the budget allows leaves fewer turns, in the same state. -/
theorem Miu.Advances.of_poll {b : Nat} {m : Miu} (hstuck : m.state ≠ .stuck) (hleft : m.polls + 1 < b) :
    Miu.Advances b m { m with polls := m.polls + 1 } := by
  refine ⟨hstuck, ?_⟩
  simp only [Miu.turnsLeft]
  omega

theorem MiuState.ahead_pos {st : MiuState} (hidle : st ≠ .idle) (hstuck : st ≠ .stuck) : 0 < st.ahead := by
  revert hidle hstuck
  cases st <;> decide

/-- A command in progress, which hangs in no access (U8), and polls that are bounded. -/
structure MiuWorks (s : State) (b : Nat) : Prop where
  budget : s.par.waitBudget = some b
  busy : s.busy .miu = true
  notStuck : s.miu.state ≠ .stuck

theorem MiuWorks.notIdle {s : State} {b : Nat} (h : MiuWorks s b) : s.miu.state ≠ .idle := by
  simpa [State.busy_miu] using h.busy

theorem MiuWorks.ahead_pos {s : State} {b : Nat} (h : MiuWorks s b) : 0 < s.miu.state.ahead :=
  MiuState.ahead_pos h.notIdle h.notStuck

theorem MiuWorks.takeTurn {s : State} {b : Nat} (h : MiuWorks s b) : MiuWorks s.takeTurn b := by
  obtain ⟨hb, hbusy, hstuck⟩ := h
  unfold State.takeTurn
  split <;> exact ⟨hb, hbusy, hstuck⟩

/-- A failed poll is counted or ends the command (R140). -/
theorem State.pollFailed_advances {s : State} {b : Nat} (hw : MiuWorks s b) : Miu.Advances b s.miu s.pollFailed.miu := by
  by_cases hlast : b ≤ s.miu.polls + 1
  · rw [State.pollFailed_of_last hw.budget hlast]
    exact .to_state .idle rfl rfl ⟨nofun, hw.ahead_pos⟩
  · rw [State.pollFailed_of_left hw.budget (by omega)]
    exact .of_poll hw.notStuck (by omega)

/-- Each turn of MIU brings its command on. -/
theorem miuStep_advances {s t : State} {b : Nat} (hw : MiuWorks s b) (h : miuStep s = .next t) :
    Miu.Advances b s.miu t.miu := by
  cases hs : s.miu.state with
  | idle => exact absurd hs hw.notIdle
  | stuck => exact absurd hs hw.notStuck
  | wait1 =>
    cases hreq : s.miiReq.getLsbD 0 with
    | true => cases (miuStep_poll (.inl hs) hreq).symm.trans h; exact State.pollFailed_advances hw
    | false => cases (miuStep_wait1_free hs hreq).symm.trans h; exact .to_state .req hs rfl (by decide)
  | req =>
    cases (miuStep_req hs).symm.trans h
    exact .to_state (if s.miu.wr then .data else .wait2) hs rfl (by split <;> decide)
  | data => cases (miuStep_data hs).symm.trans h; exact .to_state .wait2 hs rfl (by decide)
  | wait2 =>
    cases hreq : s.miiReq.getLsbD 0 with
    | true => cases (miuStep_poll (.inr hs) hreq).symm.trans h; exact State.pollFailed_advances hw
    | false =>
      cases (miuStep_wait2_free hs hreq).symm.trans h
      exact .to_state (if s.miu.wr then .done else .read) hs rfl (by split <;> decide)
  | read => cases (miuStep_read hs).symm.trans h; exact .to_state .done hs rfl (by decide)
  | done => cases (miuStep_done hs).symm.trans h; exact .to_state .idle hs rfl (by decide)

/-- A reset leaves MIU idle (R290). -/
theorem hardReset_advances {s : State} {b : Nat} (hw : MiuWorks s b) : Miu.Advances b s.miu s.hardReset.miu :=
  .to_state .idle rfl rfl ⟨nofun, hw.ahead_pos⟩

/-- No turn brings a command back, and MIU's own brings it on. -/
theorem turnStep_advances {u : Turn} {s t : State} {b : Nat} (hw : MiuWorks s b) (h : turnStep u s = .next t) :
    t.miu.state ≠ .stuck ∧ t.miu.turnsLeft b ≤ s.miu.turnsLeft b ∧ (u = .miu → t.miu.turnsLeft b < s.miu.turnsLeft b) := by
  by_cases hown : u = .miu
  · subst hown
    obtain ⟨hstuck, hless⟩ := miuStep_advances hw h
    exact ⟨hstuck, Nat.le_of_lt hless, fun _ => hless⟩
  · by_cases hreset : u = .reset
    · subst hreset
      cases h
      obtain ⟨hstuck, hless⟩ := hardReset_advances hw
      exact ⟨hstuck, Nat.le_of_lt hless, fun _ => hless⟩
    · rw [turnStep_miu_of_busy hown hreset hw.busy h]
      exact ⟨hw.notStuck, Nat.le_refl _, fun h => absurd h hown⟩

theorem State.takeTurn_miu (s : State) : s.takeTurn.miu = s.miu := by
  unfold State.takeTurn
  split <;> rfl

theorem step_advances {s t : State} {b : Nat} (hw : MiuWorks s b) (h : step s = .next t) :
    t.miu.state ≠ .stuck ∧ t.miu.turnsLeft b ≤ s.miu.turnsLeft b
      ∧ (s.nextTurn = .miu → t.miu.turnsLeft b < s.miu.turnsLeft b) := by
  have hturn := turnStep_advances hw.takeTurn h
  rwa [State.takeTurn_miu] at hturn

/-! Runs. -/

/-- In a run in which MIU does not become idle its command stays in progress and no more of it is left later. -/
theorem MiuWorks.along {run : Nat → State} {b n m : Nat} (hrun : IsRun run) (hbusy : ∀ m, n ≤ m → (run m).busy .miu = true)
    (hw : MiuWorks (run n) b) (hnm : n ≤ m) :
    MiuWorks (run m) b ∧ (run m).miu.turnsLeft b ≤ (run n).miu.turnsLeft b := by
  induction m, hnm using Nat.le_induction with
  | base => exact ⟨hw, Nat.le_refl _⟩
  | succ m hnm ih =>
    obtain ⟨hwm, hle⟩ := ih
    obtain ⟨hstuck, hnext, -⟩ := step_advances hwm (hrun m)
    exact ⟨⟨(congrArg _ (step_par (hrun m))).trans hwm.budget, hbusy _ (Nat.le_succ_of_le hnm), hstuck⟩,
      Nat.le_trans hnext hle⟩

/-- A run fair to MIU in which it does not become idle would need ever fewer turns. -/
theorem MiuWorks.not_forever {run : Nat → State} {b n k : Nat} (hrun : IsRun run) (hfair : SequencersFair run)
    (hbusy : ∀ m, n ≤ m → (run m).busy .miu = true) (hw : MiuWorks (run n) b) : k ≤ (run n).miu.turnsLeft b := by
  induction k generalizing n with
  | zero => exact Nat.zero_le _
  | succ k ih =>
    obtain ⟨m, hnm, hm⟩ := hfair n .miu hw.busy
    have hturn : (run m).nextTurn = .miu := hm.resolve_right (by simp [hbusy m hnm])
    obtain ⟨hwm, hle⟩ := hw.along hrun hbusy hnm
    obtain ⟨hnext, -⟩ := hw.along hrun hbusy (Nat.le_succ_of_le hnm)
    obtain ⟨-, -, hless⟩ := step_advances hwm (hrun m)
    have hk := ih (n := m + 1) (fun j hj => hbusy j (by omega)) hnext
    have := hless hturn
    omega

/-- Settles O18: the two ends of a failed poll, and the turns a fair run gives MIU, each of which brings the command on. -/
theorem boundedWaitTimesOut : Obligations.BoundedWaitTimesOut := by
  refine ⟨fun s b hb hwait hreq => ⟨fun hleft => ?_, fun hlast => ?_⟩, fun run b n hrun hfair hb hstuck => ?_⟩
  · exact (miuStep_poll hwait hreq).trans (congrArg _ (State.pollFailed_of_left hb hleft))
  · exact (miuStep_poll hwait hreq).trans (congrArg _ (State.pollFailed_of_last hb hlast))
  · by_contra hnever
    have hbusy : ∀ m, n ≤ m → (run m).busy .miu = true := fun m hnm =>
      Bool.eq_true_of_not_eq_false fun hidle => hnever ⟨m, hnm, hidle⟩
    exact Nat.not_succ_le_self _ (MiuWorks.not_forever hrun hfair hbusy ⟨hb, hbusy n (Nat.le_refl n), hstuck⟩)

end Sys2Proof.Machine
end

section
/-! PROOFS. The steps of TXU one by one (R160 to R171): what each makes of the state where its accesses are admitted. -/

namespace Sys2Proof.Machine
open Sys2Proof

/-! One word of memory set. -/

/-- `m'` is `m` with the word at `a` set to `v`. -/
structure WordSet (m m' : Memory) (a v : Word) : Prop where
  wf : m'.wf = true
  word : m'.wordAt a.toNat = v
  outside : SameOutside m m' a.toNat 4

theorem State.updateW0_sets {s : State} {d : Word} (f : Word → Word) (hm : s.mem.wf = true) (ha : s.admitsWord d = true) :
    ∃ m, s.updateW0 d f = some (s.withMem m) ∧ WordSet s.mem m d (f (s.mem.wordAt d.toNat)) := by
  obtain ⟨t, ht⟩ := State.updateW0_enabled f ha
  obtain ⟨-, hmem, hwf, hword, hout⟩ := State.updateW0_some ht
  exact ⟨t.mem, hmem ▸ ht, hwf hm, hword hm, hout⟩

theorem State.updateW1_sets {s : State} {d : Word} (f : Word → Word) (hm : s.mem.wf = true) (ha : s.admitsWord (d + 4#32) = true) :
    ∃ m, s.updateW1 d f = some (s.withMem m) ∧ WordSet s.mem m (d + 4#32) (f (s.mem.wordAt (d + 4#32).toNat)) := by
  obtain ⟨t, ht⟩ := State.updateW1_enabled f ha
  obtain ⟨-, hmem, hwf, hword, hout⟩ := State.updateW1_some ht
  exact ⟨t.mem, hmem ▸ ht, hwf hm, hword hm, hout⟩

/-- A word beside the one that changed loads as before. -/
theorem State.loadWord_other {s : State} {m : Memory} {a b : Word} (ha : s.admitsWord a = true)
    (hout : SameOutside s.mem m a.toNat 4) (hne : b ≠ a) : (s.withMem m).loadWord b = s.loadWord b := by
  rw [State.loadWord, State.loadWord, State.admitsWord_withMem]
  split
  · rename_i hb
    exact congrArg some (hout.wordAt (admitsWord_disjoint hb ha hne))
  · rfl

theorem w3Addr_ne_w0Addr (d : Word) : w3Addr d ≠ w0Addr d := by simp [w3Addr, w0Addr]

theorem w3Addr_ne_w1Addr (d : Word) : w3Addr d ≠ w1Addr d := by simp [w3Addr, w1Addr]

/-- An update of `W0` leaves the descriptor's link. -/
theorem State.loadW3_updateW0 {s : State} {m : Memory} {d : Word} {f : Word → Word} (h : s.updateW0 d f = some (s.withMem m)) :
    (s.withMem m).loadW3 d = s.loadW3 d :=
  have ⟨ha, _, _, _, hout⟩ := State.updateW0_some h
  State.loadWord_other ha hout (w3Addr_ne_w0Addr d)

/-- An update of `W1` leaves the descriptor's link. -/
theorem State.loadW3_updateW1 {s : State} {m : Memory} {d : Word} {f : Word → Word} (h : s.updateW1 d f = some (s.withMem m)) :
    (s.withMem m).loadW3 d = s.loadW3 d :=
  have ⟨ha, _, _, _, hout⟩ := State.updateW1_some h
  State.loadWord_other ha hout (w3Addr_ne_w1Addr d)

/-! The count of fragments (R10, R161). -/

/-- `ceilDiv` is the least number of full-capacity fragments that holds the length. -/
theorem ceilDiv_le_iff {b : Nat} (hb : 1 ≤ b) (a q : Nat) : ceilDiv a b ≤ q ↔ a ≤ q * b := by
  rw [Nat.mul_comm]
  exact ceilDiv_le_iff_le_mul (b := a) (c := q) hb

theorem ceilDiv_eq_zero {b : Nat} (hb : 1 ≤ b) (a : Nat) : ceilDiv a b = 0 ↔ a = 0 := by
  rw [← Nat.le_zero, ceilDiv_le_iff hb, Nat.zero_mul, Nat.le_zero]

/-- The last fragment, full or not, makes the count one more. -/
theorem ceilDiv_eq_succ {a b i : Nat} (hb : 1 ≤ b) (hlo : i * b < a) (hhi : a ≤ (i + 1) * b) : ceilDiv a b = i + 1 := by
  have hle := (ceilDiv_le_iff hb a (i + 1)).2 hhi
  have hgt : ¬ceilDiv a b ≤ i := fun h => Nat.not_le.2 hlo ((ceilDiv_le_iff hb a i).1 h)
  omega

/-! The command and `T_CHECK`. -/

theorem execSend_accepted {s : State} (h : s.busy .txu = false) : execSend s = .next { s with
    cmdFault := .noFault, txu := { s.txu with src := s.arg0, len := s.arg1, state := .check } } := by
  rw [execSend, if_neg (by simp [h])]
  rfl

theorem txuStep_check {s : State} (hs : s.txu.state = .check) : txuStep s = .next (txuCheck s) := by simp only [txuStep, hs]

theorem txuCheck_long {s : State} (h : s.par.nTx < ceilDiv s.txu.len.toNat s.par.capTx) :
    txuCheck s = s.finishTx (minus 1) .fragOverflow := if_pos h

theorem txuCheck_empty {s : State} (h : ceilDiv s.txu.len.toNat s.par.capTx = 0) : txuCheck s = s.finishTx 0#32 .ok :=
  (if_neg (by omega)).trans (if_pos h)

theorem txuCheck_counted {s : State} (hfits : ceilDiv s.txu.len.toNat s.par.capTx ≤ s.par.nTx)
    (hpos : ceilDiv s.txu.len.toNat s.par.capTx ≠ 0) :
    txuCheck s = { s with txu := { s.txu with cnt := ceilDiv s.txu.len.toNat s.par.capTx, i := 0, rem := s.txu.len,
                                              total := 0#32, first := s.txCur, state := .waitOwn } } :=
  (if_neg (Nat.not_lt.2 hfits)).trans (if_neg hpos)

/-! Staging a fragment. -/

theorem txuStep_waitOwn {s : State} (hs : s.txu.state = .waitOwn) : txuStep s = enabledOr s (txuWaitOwn s) := by
  simp only [txuStep, hs]

theorem txuWaitOwn_loaded {s : State} {w : Word} (h : s.loadW0 s.txCur = some w) :
    txuWaitOwn s = if own w then some s else some (s.gotoTx .clear) := by
  rw [txuWaitOwn, h, Option.bind_some]

theorem txuStep_clear {s : State} (hm : s.mem.wf = true) (hs : s.txu.state = .clear) (ha : s.admitsWord s.txCur = true) :
    ∃ m, txuStep s = .next { s with mem := m, txu := { s.txu with state := .copyStart } }
      ∧ WordSet s.mem m s.txCur (clearStatus (s.mem.wordAt s.txCur.toNat)) := by
  obtain ⟨m, hu, hset⟩ := State.updateW0_sets clearStatus hm ha
  refine ⟨m, ?_, hset⟩
  simp only [txuStep, hs, txuClear, hu]
  rfl

theorem State.fragLen_eq_zero {s : State} (hw : s.par.wf = true) : s.fragLen = 0 ↔ s.txu.rem = 0#32 := by
  obtain ⟨-, -, hcap, -⟩ := Params.wf_rings hw
  have hrem : s.txu.rem.toNat = 0 ↔ s.txu.rem = 0#32 := BitVec.toNat_inj (y := 0#32)
  rw [← hrem, State.fragLen]
  omega

theorem txuStep_copyStart_fault {s : State} {buf : Word} (hs : s.txu.state = .copyStart) (hb : s.loadW2 s.txCur = some buf)
    (h : s.copy.busy = true ∨ s.fragLen = 0) : txuStep s = .fault .copyStartUndefined := by
  simp only [txuStep, hs, txuCopyStart, hb]
  exact if_pos (by simpa using h)

theorem txuStep_copyStart {s : State} {buf : Word} (hs : s.txu.state = .copyStart) (hb : s.loadW2 s.txCur = some buf)
    (hfree : s.copy.busy = false) (hfrag : s.fragLen ≠ 0) : txuStep s = .next { s with
      txu := { s.txu with frag := s.fragLen, state := .acquire },
      copy := { s.copy with busy := true, src := s.txu.src, dst := buf, len := s.fragLen,
                            payload := s.txu.src - s.txu.total, payloadLen := s.txu.len },
      events := s.events ++ [.copyStart s.txu.src buf s.fragLen] } := by
  simp only [txuStep, hs, txuCopyStart, hb]
  exact if_neg (by simp [hfree, hfrag])

/-- `T_RECORD`, with the remainder that ends the frame written as R166 does. -/
theorem txuStep_record {s : State} {next : Word} (hm : s.mem.wf = true) (hs : s.txu.state = .record)
    (ha : s.admitsWord (s.txCur + 4#32) = true) (hn : s.loadW3 s.txCur = some next) :
    ∃ m, txuStep s = .next { s with
        mem := m, txCur := next,
        txu := { s.txu with
          last := s.txCur, src := s.txu.src + BitVec.ofNat 32 s.txu.frag, rem := s.txu.rem - BitVec.ofNat 32 s.txu.frag,
          total := s.txu.total + BitVec.ofNat 32 s.txu.frag, i := s.txu.i + 1,
          state := if s.txu.rem = BitVec.ofNat 32 s.txu.frag then .flagFirst else .waitOwn } }
      ∧ WordSet s.mem m (s.txCur + 4#32) (recordLen (s.mem.wordAt (s.txCur + 4#32).toNat) s.txu.frag) := by
  obtain ⟨m, hu, hset⟩ := State.updateW1_sets (fun w => recordLen w s.txu.frag) hm ha
  refine ⟨m, ?_, hset⟩
  have hnone : s.txu.rem - BitVec.ofNat 32 s.txu.frag = 0#32 ↔ s.txu.rem = BitVec.ofNat 32 s.txu.frag := sub_eq_zero
  simp only [txuStep, hs, txuRecord, hu, Option.bind_some, State.loadW3_updateW1 hu, hn, hnone]
  rfl

/-! Flags, grants, report. -/

theorem txuStep_flagFirst {s : State} (hm : s.mem.wf = true) (hs : s.txu.state = .flagFirst)
    (ha : s.admitsWord s.txu.first = true) :
    ∃ m, txuStep s = .next { s with mem := m, txu := { s.txu with state := .flagLast } }
      ∧ WordSet s.mem m s.txu.first (setSegFirst (s.mem.wordAt s.txu.first.toNat)) := by
  obtain ⟨m, hu, hset⟩ := State.updateW0_sets setSegFirst hm ha
  refine ⟨m, ?_, hset⟩
  simp only [txuStep, hs, txuFlagFirst, hu]
  rfl

/-- `T_FLAG_LAST`: `W0`, then `W1`. -/
theorem txuStep_flagLast {s : State} (hm : s.mem.wf = true) (hs : s.txu.state = .flagLast) (h0 : s.admitsWord s.txu.last = true)
    (h1 : s.admitsWord (s.txu.last + 4#32) = true) :
    ∃ m m', txuStep s = .next { s with mem := m', txu := { s.txu with g := s.txu.first, j := 0, state := .grant } }
      ∧ WordSet s.mem m s.txu.last (setSegLast (s.mem.wordAt s.txu.last.toNat))
      ∧ WordSet m m' (s.txu.last + 4#32) (setIoc (m.wordAt (s.txu.last + 4#32).toNat)) := by
  obtain ⟨m, hu, hset⟩ := State.updateW0_sets setSegLast hm h0
  obtain ⟨m', hu', hset'⟩ := State.updateW1_sets (s := s.withMem m) setIoc hset.wf h1
  refine ⟨m, m', ?_, hset, hset'⟩
  have hstep : txuStep s = enabledOr s (txuFlagLast s) := by simp only [txuStep, hs]
  rw [hstep, txuFlagLast, hu, Option.bind_some, State.withMem_txu, hu']
  rfl

theorem txuStep_of_grant {s : State} (hs : s.txu.state = .grant) : txuStep s = enabledOr s (txuGrant s) := by
  simp only [txuStep, hs]

theorem txuStep_grant {s : State} {next : Word} (hm : s.mem.wf = true) (hs : s.txu.state = .grant) (hj : s.txu.j < s.txu.cnt)
    (ha : s.admitsWord s.txu.g = true) (hn : s.loadW3 s.txu.g = some next) :
    ∃ m, txuStep s = .next { s with mem := m, txu := { s.txu with g := next, j := s.txu.j + 1 } }
      ∧ WordSet s.mem m s.txu.g (setOwn (s.mem.wordAt s.txu.g.toNat)) := by
  obtain ⟨m, hu, hset⟩ := State.updateW0_sets setOwn hm ha
  refine ⟨m, ?_, hset⟩
  rw [txuStep_of_grant hs, txuGrant, if_pos hj, hu, Option.bind_some, State.loadW3_updateW0 hu, hn]
  rfl

theorem txuStep_granted {s : State} (hs : s.txu.state = .grant) (hj : s.txu.cnt ≤ s.txu.j) :
    txuStep s = .next { s with txu := { s.txu with state := .poll } } := by
  rw [txuStep_of_grant hs, txuGrant, if_neg (Nat.not_lt.2 hj)]
  rfl

theorem txuStep_done {s : State} (hs : s.txu.state = .done) :
    txuStep s = .next { s with txResult := s.txu.total, txCode := .ok, txu := { s.txu with state := .idle } } := by
  simp only [txuStep, hs]
  rfl

/-! The statements. -/

/-- Settles O26: TXU is idle, so the command is not refused. -/
theorem sendIsAccepted : Obligations.SendIsAccepted := fun _ => execSend_accepted

/-- Settles O27: the three ends of `T_CHECK`, with the count of fragments as the least number that holds the length. -/
theorem checkCountsFragments : Obligations.CheckCountsFragments := by
  intro s hw hs
  obtain ⟨hring, -, hcap, -⟩ := Params.wf_rings hw
  have hcount := ceilDiv_le_iff hcap s.txu.len.toNat
  have hstep : turnStep .txu s = .next (txuCheck s) := txuStep_check hs
  have hzero : ceilDiv s.txu.len.toNat s.par.capTx = 0 ↔ s.txu.len = 0#32 := (ceilDiv_eq_zero hcap _).trans (BitVec.toNat_inj (y := 0#32))
  refine ⟨fun hlong => ?_, fun hempty => ?_, fun hne hfits => ?_⟩
  · rw [hstep, txuCheck_long (Nat.lt_of_not_le fun h => Nat.not_le.2 hlong ((hcount _).1 h))]
    rfl
  · rw [hstep, txuCheck_empty (hzero.2 hempty)]
    rfl
  · rw [hstep, txuCheck_counted ((hcount _).2 hfits) fun h => hne (hzero.1 h)]
    exact ⟨_, rfl, (hcount _).1 (Nat.le_refl _), fun q => (hcount q).2⟩

/-- Settles O28: the cursor's `W0` is not read, or read with `OWN` 1 or 0. -/
theorem transmitWaitsForOwnership : Obligations.TransmitWaitsForOwnership := by
  intro s hs
  have hstep : turnStep .txu s = enabledOr s (txuWaitOwn s) := txuStep_waitOwn hs
  refine ⟨fun hodd => ?_, fun ha hown => ?_, fun ha hown => ?_⟩
  · have hno : s.loadW0 s.txCur = none := if_neg fun h => hodd (State.admitsWord_bound h).1
    rw [hstep, txuWaitOwn, hno]
    rfl
  · have hhw : own (s.mem.wordAt (w0Addr s.txCur).toNat) = true := hown
    rw [hstep, txuWaitOwn_loaded (State.loadWord_of_admits ha), if_pos hhw]
    rfl
  · have hsw : own (s.mem.wordAt (w0Addr s.txCur).toNat) = false := hown
    rw [hstep, txuWaitOwn_loaded (State.loadWord_of_admits ha), if_neg (Bool.eq_false_iff.1 hsw)]
    rfl

/-- Settles O29, from the update of `W0`. -/
theorem clearKeepsOnlyOwn : Obligations.ClearKeepsOnlyOwn := by
  intro s hm hs ha
  obtain ⟨m, hstep, hset⟩ := txuStep_clear hm hs ha
  exact ⟨_, hstep, rfl, hset.word, hset.outside⟩

/-- Settles O30: the fragment is the lesser of the bytes remaining and the capacity, and it is empty only when nothing remains. -/
theorem copyStartProgramsTheEngine : Obligations.CopyStartProgramsTheEngine := by
  intro s hw hs ha
  have hbuf : s.loadW2 s.txCur = some _ := State.loadWord_of_admits ha
  refine ⟨fun h => txuStep_copyStart_fault hs hbuf (h.imp_right (State.fragLen_eq_zero hw).2), fun hfree hrem => ?_⟩
  have hfrag : s.fragLen ≠ 0 := fun h => hrem ((State.fragLen_eq_zero hw).1 h)
  exact ⟨s.fragLen, Nat.one_le_iff_ne_zero.2 hfrag, Nat.min_le_right _ _, Nat.min_le_left _ _, (min_choice _ _).symm,
    txuStep_copyStart hs hbuf hfree hfrag⟩

/-- Settles O32: bit by bit what the update of `W1` sets and keeps. -/
theorem recordAdvancesTheCursor : Obligations.RecordAdvancesTheCursor := by
  intro s hm hs hfrag h1 h3
  obtain ⟨m, hstep, hset⟩ := txuStep_record hm hs h1 (State.loadWord_of_admits h3)
  refine ⟨_, hstep, rfl, fun b hb => ?_, fun b hlo hhi => ?_, ?_, hset.outside⟩
  · rw [hset.word, getLsbD_recordLen _ hfrag, if_pos hb]
  · rw [hset.word, getLsbD_recordLen _ hfrag, if_neg (by omega), if_neg (by omega)]
  · rw [hset.word, getLsbD_recordLen _ hfrag]
    rfl

/-- Settles O33: one update of `W0`, and one of `W0` and `W1`, which do not overlap. -/
theorem flagsMarkFirstAndLastSegment : Obligations.FlagsMarkFirstAndLastSegment := by
  refine fun s hm => ⟨fun hs ha => ?_, fun hs h0 h1 => ?_⟩
  · obtain ⟨m, hstep, hset⟩ := txuStep_flagFirst hm hs ha
    exact ⟨_, hstep, rfl, hset.word, hset.outside⟩
  · obtain ⟨m, m', hstep, hset, hset'⟩ := txuStep_flagLast hm hs h0 h1
    have hapart := admitsWord_disjoint h0 h1 (by simp)
    refine ⟨_, hstep, rfl, (hset'.outside.wordAt hapart).trans hset.word, ?_,
      fun x hx hx' => (hset'.outside x hx').trans (hset.outside x hx)⟩
    rw [hset'.word, hset.outside.wordAt hapart.symm]
    rfl

/-- Settles O34: the grant's update of `W0`, the end of the grants, and the report. -/
theorem grantHandsOverOneDescriptor : Obligations.GrantHandsOverOneDescriptor := by
  refine fun s hm => ⟨txuStep_granted, fun hs hj ha hn => ?_, txuStep_done⟩
  obtain ⟨m, hstep, hset⟩ := txuStep_grant hm hs hj ha (State.loadWord_of_admits hn)
  exact ⟨_, hstep, rfl, hset.word, hset.outside⟩

end Sys2Proof.Machine
end

section
/-! PROOFS. Fragmentation (R161 to R173): what no other agent's turn changes of a `SEND` in progress, and that TXU's moves keep the law of
its counts and lengths, the payload's place and the slots. -/

namespace Sys2Proof.Machine
open Sys2Proof

/-! What the devices leave as it was. -/

theorem irqStep_frame {s t : State} (h : irqStep s = some t) : t = { s with
    copy := { s.copy with tc := t.copy.tc }, locked := t.locked, syncFault := t.syncFault, events := t.events } := by
  simp only [irqStep, Option.ite_none_right_eq_some, Option.some.injEq] at h
  obtain ⟨-, rfl⟩ := h
  unfold State.release
  split <;> rfl

theorem copyStep_frame {s t : State} (h : copyStep s = some t) : t = { s with
    copy := { s.copy with busy := t.copy.busy, tc := t.copy.tc }, mem := t.mem, events := t.events, draws := t.draws } := by
  simp only [copyStep, Option.ite_none_right_eq_some, Option.bind_eq_some_iff, Option.some.injEq] at h
  obtain ⟨-, u, hu, rfl⟩ := h
  obtain ⟨m, k, rfl⟩ := State.memCopy_withMem hu
  rfl

theorem dmaTransmit_frame {err : BitVec 14} {s t : State} (h : dmaTransmit err s = some t) :
    t = { s with dma := t.dma, mem := t.mem, events := t.events } := by
  simp only [dmaTransmit, Option.ite_none_right_eq_some, Option.bind_eq_some_iff, Option.some.injEq] at h
  obtain ⟨-, w0, -, -, w1, -, -, buf, -, bytes, -, u, hu, next, -, rfl⟩ := h
  obtain ⟨m, rfl⟩ := State.storeWord_withMem hu
  rfl

theorem dmaSuspend_frame {s t : State} (h : dmaSuspend s = some t) : t = { s with dma := t.dma } := by
  simp only [dmaSuspend, Option.ite_none_right_eq_some, Option.ite_none_left_eq_some, Option.bind_eq_some_iff,
    Option.some.injEq] at h
  obtain ⟨-, w0, -, -, rfl⟩ := h
  rfl

theorem dmaFill_frame {fl err : BitVec 14} {s t : State} (h : dmaFill fl err s = some t) :
    t = { s with dma := t.dma, mem := t.mem, events := t.events } := by
  simp only [dmaFill, State.fillDesc, Option.ite_none_right_eq_some, Option.bind_eq_some_iff, Option.some.injEq] at h
  obtain ⟨-, w0, -, -, w1, -, -, buf, -, u, hu, v, hv, next, -, rfl⟩ := h
  obtain ⟨m, rfl⟩ := State.storeBytes_withMem hu
  obtain ⟨m', rfl⟩ := State.storeWord_withMem hv
  rfl

theorem dmaArrive_frame {frame : List Byte} {s t : State} (h : dmaArrive frame s = some t) : t = { s with dma := t.dma } := by
  simp only [dmaArrive, Option.ite_none_right_eq_some, Option.some.injEq] at h
  obtain ⟨-, rfl⟩ := h
  rfl

/-! The turns of the other agents. -/

/-- The registers a `SEND` in progress rests on: the parameters, TXU's, the cursor, and the payload the engine was told. -/
def State.sendView (s : State) : Params × Txu × Word × Word × Word :=
  (s.par, s.txu, s.txCur, s.copy.payload, s.copy.payloadLen)

/-- A command of HOST's found TXU idle: a `SEND` begins, or the ring is initialised, the cursor at slot 0. -/
structure TxuCommanded (s t : State) : Prop where
  idle : s.txu.state = .idle
  par : t.par = s.par
  state : t.txu.state = .idle ∨ t.txu.state = .check ∨ t.txu.state = .stuck
  cur : t.txCur = s.txCur ∨ t.txCur = s.par.txdBase

/-- What a turn other than TXU's and a reset makes of a `SEND`'s registers: nothing, unless HOST commands an idle TXU. -/
def SendLeft (s t : State) : Prop := t.sendView = s.sendView ∨ TxuCommanded s t

/-- An agent that is not enabled changes nothing, so only its enabled step is in question. -/
theorem SendLeft.of_enabledOr {s t : State} {o : Option State} (ho : ∀ u, o = some u → u.sendView = s.sendView)
    (h : enabledOr s o = .next t) : SendLeft s t := by
  obtain h | ⟨-, rfl⟩ := enabledOr_next h
  · exact .inl (ho t h)
  · exact .inl rfl

/-- The count of free values taken does not matter to a `SEND`. -/
theorem SendLeft.of_enabledOr_spend {s t : State} {o : Option State} {n : Nat} (ho : ∀ u, o = some u → u.sendView = s.sendView)
    (h : enabledOr s (o.map fun u => u.spend n) = .next t) : SendLeft s t := by
  refine .of_enabledOr (fun u hu => ?_) h
  obtain ⟨v, hv, rfl⟩ := Option.map_eq_some_iff.mp hu
  exact ho v hv

theorem sendView_of_withMem {s t : State} (h : t = s.withMem t.mem) : t.sendView = s.sendView := by
  rw [h]
  rfl

theorem execInitTxRing_left {s t : State} (h : execInitTxRing s = .next t) : SendLeft s t := by
  unfold execInitTxRing at h
  split at h
  · cases h; exact .inl rfl
  · rename_i hbusy
    have hidle := State.txu_idle_of_not_busy (Bool.eq_false_of_not_eq_true hbusy)
    split at h
    · cases h; exact .inl rfl
    · split at h
      · rename_i u hu
        cases h
        have hpar : u.par = s.par := (congrArg State.par (State.initDescs_mem hu).1 :)
        exact .inr ⟨hidle, hpar, .inl rfl, .inr (congrArg Params.txdBase hpar)⟩
      · cases h; exact .inr ⟨hidle, rfl, .inr (.inr rfl), .inl rfl⟩

theorem execSend_left {s t : State} (h : execSend s = .next t) : SendLeft s t := by
  unfold execSend at h
  split at h
  · cases h; exact .inl rfl
  · rename_i hbusy
    cases h
    exact .inr ⟨State.txu_idle_of_not_busy (Bool.eq_false_of_not_eq_true hbusy), rfl, .inr (.inl rfl), .inl rfl⟩

theorem execInitRxRing_sendView {s t : State} (h : execInitRxRing s = .next t) : t.sendView = s.sendView := by
  unfold execInitRxRing at h
  split at h
  · cases h; rfl
  · split at h
    · cases h; rfl
    · split at h
      · rename_i u hu
        cases h
        exact sendView_of_withMem (s := s.accept) (t := u) (State.initDescs_mem hu).1
      · cases h; rfl

theorem execReceive_sendView {block : Bool} {s t : State} (h : execReceive block s = .next t) : t.sendView = s.sendView := by
  unfold execReceive at h
  split at h <;> cases h <;> rfl

theorem execPollRx_sendView {s t : State} (h : execPollRx s = .next t) : t.sendView = s.sendView := by
  unfold execPollRx at h
  split at h
  · cases h; rfl
  · split at h <;> cases h <;> rfl

theorem execReadPhy_sendView {s t : State} (h : execReadPhy s = .next t) : t.sendView = s.sendView := by
  unfold execReadPhy at h
  split at h <;> cases h <;> rfl

theorem execWritePhy_sendView {s t : State} (h : execWritePhy s = .next t) : t.sendView = s.sendView := by
  unfold execWritePhy at h
  split at h <;> cases h <;> rfl

theorem execGetMac_sendView {s t : State} (h : execGetMac s = .next t) : t.sendView = s.sendView := by
  unfold execGetMac at h
  split at h
  · cases h; rfl
  · split at h
    · rename_i u hu
      cases h
      obtain ⟨-, hmem, -⟩ := State.storeBytes_some hu
      exact sendView_of_withMem (s := s.accept) (t := u) hmem
    · cases h; rfl

theorem execSetMac_sendView {s t : State} (h : execSetMac s = .next t) : t.sendView = s.sendView := by
  unfold execSetMac at h
  split at h
  · cases h; rfl
  · split at h <;> cases h <;> rfl

/-- Only TXU's own two commands reach a `SEND`'s registers, and only where TXU is idle (R81, R83). -/
theorem exec_left {i : Instr} {s t : State} (h : exec i s = .next t) : SendLeft s t := by
  cases i with
  | initTxRing => exact execInitTxRing_left h
  | send => exact execSend_left h
  | initRxRing => exact .inl (execInitRxRing_sendView h)
  | receive block => exact .inl (execReceive_sendView h)
  | pollRx => exact .inl (execPollRx_sendView h)
  | readPhy => exact .inl (execReadPhy_sendView h)
  | writePhy => exact .inl (execWritePhy_sendView h)
  | getMac => exact .inl (execGetMac_sendView h)
  | setMac => exact .inl (execSetMac_sendView h)
  | miiRead pa ri => rw [execMiiRead_frame h]; exact .inl rfl
  | miiWrite pa ri => rw [execMiiWrite_frame h]; exact .inl rfl

theorem State.ifMiuIdle_sendView {s t : State} (h : t.sendView = s.sendView) : (s.ifMiuIdle t).sendView = s.sendView := by
  unfold State.ifMiuIdle
  split
  · rfl
  · exact h

/-- No register but `CMD` reaches a `SEND`'s registers. -/
theorem State.writeReg_sendView (s : State) (r : Reg) (v : Word) : (s.writeReg r v).sendView = s.sendView := by
  cases r with
  | txBase => simp only [State.writeReg, State.writeTxBase]; split <;> rfl
  | rxBase => simp only [State.writeReg, State.writeRxBase]; split <;> rfl
  | miiReq | miiData | macHi | macLo => exact State.ifMiuIdle_sendView rfl
  | _ => rfl

theorem hostWrite_left {off width : Nat} {v : Word} {s t : State} (h : hostWrite off width v s = .next t) : SendLeft s t := by
  unfold hostWrite at h
  split at h
  · unfold hostCommand at h
    split at h
    · exact exec_left h
    · cases h; exact .inl rfl
  · cases h; exact .inl (s.writeReg_sendView _ v)
  · cases h; exact .inl rfl

theorem hostRead_sendView (off width : Nat) (s : State) : (hostRead off width s).sendView = s.sendView := by
  unfold hostRead
  split <;> rfl

/-- Taking an access off HOST's queue does not matter to a `SEND`. -/
theorem SendLeft.of_queue {s t : State} {q : List HostOp} (h : SendLeft { s with hostQ := q } t) : SendLeft s t :=
  h.imp id fun h => ⟨h.idle, h.par, h.state, h.cur⟩

theorem hostStep_left {s t : State} (h : hostStep s = .next t) : SendLeft s t := by
  unfold hostStep at h
  split at h
  case h_1 => cases h; exact .inl rfl
  case h_2 q _ => exact .of_queue (hostWrite_left (s := { s with hostQ := q }) h)
  case h_3 q _ => cases h; exact .inl (hostRead_sendView _ _ { s with hostQ := q })
  case h_4 q _ =>
    refine .of_enabledOr (fun u hu => ?_) h
    obtain ⟨-, hmem, -⟩ := State.storeBytes_some hu
    exact sendView_of_withMem (s := { s with hostQ := q }) hmem
  case h_5 => split at h <;> cases h <;> exact .inl rfl
  case h_6 => split at h <;> cases h <;> exact .inl rfl

/-- A `SEND` in progress is TXU's own: no other agent's turn changes its registers (R34, R273). -/
theorem turnStep_left {u : Turn} {s t : State} (hown : u ≠ .txu) (hreset : u ≠ .reset) (h : turnStep u s = .next t) :
    SendLeft s t := by
  cases u with
  | txu => exact absurd rfl hown
  | reset => exact absurd rfl hreset
  | host => exact hostStep_left h
  | rxu => rw [(rxuStep_move h).frame]; exact .inl rfl
  | miu => rw [miuStep_frame h]; exact .inl rfl
  | miieng => rw [miiengStep_frame h]; exact .inl rfl
  | irq => exact .of_enabledOr (fun _ hu => by rw [irqStep_frame hu]; rfl) h
  | copy => exact .of_enabledOr (fun _ hu => by rw [copyStep_frame hu]; rfl) h
  | dmaTransmit => exact .of_enabledOr_spend (fun _ hu => by rw [dmaTransmit_frame hu]; rfl) h
  | dmaSuspend => exact .of_enabledOr (fun _ hu => by rw [dmaSuspend_frame hu]; rfl) h
  | dmaFill => exact .of_enabledOr_spend (fun _ hu => by rw [dmaFill_frame hu]; rfl) h
  | dmaArrive => exact .of_enabledOr_spend (fun _ hu => by rw [dmaArrive_frame hu]; rfl) h

/-! Counts and lengths (R173). -/

theorem TxuInv.of_sendView {s t : State} (hv : t.sendView = s.sendView) (h : TxuInv s) : TxuInv t := by
  simp only [State.sendView, Prod.mk.injEq] at hv
  obtain ⟨hpar, htxu, -, hpay, hlen⟩ := hv
  simpa only [TxuInv, hpar, htxu, hpay, hlen] using h

/-- Before and after a `SEND` nothing is said of TXU's registers. -/
theorem TxuInv.of_rest {s : State} (h : s.txu.state = .idle ∨ s.txu.state = .check ∨ s.txu.state = .stuck) : TxuInv s := by
  obtain h | h | h := h <;> simp only [TxuInv, h]

theorem SendLeft.txuInv {s t : State} (h : SendLeft s t) (hi : TxuInv s) : TxuInv t :=
  h.elim (fun hv => hi.of_sendView hv) fun hc => .of_rest hc.state

/-- The registers `T_RECORD` advances by the fragment (R166). -/
def Txu.advanced (t : Txu) : Txu :=
  { t with rem := t.rem - BitVec.ofNat 32 t.frag, total := t.total + BitVec.ofNat 32 t.frag, i := t.i + 1 }

theorem Txu.frag_toNat {t : Txu} {p : Params} (hfrag : t.frag = min t.rem.toNat p.capTx) :
    (BitVec.ofNat 32 t.frag).toNat = t.frag := by
  have := t.rem.isLt
  rw [BitVec.toNat_ofNat, Nat.mod_eq_of_lt (by omega)]

theorem Txu.advanced_rem {t : Txu} {p : Params} (hfrag : t.frag = min t.rem.toNat p.capTx) :
    t.advanced.rem.toNat = t.rem.toNat - t.frag := by
  have hf := Txu.frag_toNat hfrag
  rw [Txu.advanced, BitVec.toNat_sub_of_le (BitVec.le_def.2 (by omega)), hf]

/-- No byte is counted twice: what the total gains, the remainder loses. -/
theorem Txu.advanced_total {t : Txu} {p : Params} (hfrag : t.frag = min t.rem.toNat p.capTx)
    (hsum : t.total.toNat + t.rem.toNat = t.len.toNat) : t.advanced.total.toNat = t.total.toNat + t.frag := by
  have hf := Txu.frag_toNat hfrag
  have := t.len.isLt
  rw [Txu.advanced, BitVec.toNat_add, hf, Nat.mod_eq_of_lt (by omega)]

/-- With bytes remaining, the fragment staged was a full one. -/
theorem Txu.staging.advanced {t : Txu} {p : Params} (h : t.staging p) (hfrag : t.frag = min t.rem.toNat p.capTx)
    (hmore : t.advanced.rem ≠ 0#32) : t.advanced.staging p := by
  obtain ⟨hcnt, hfits, htotal, hsum, -⟩ := h
  have hrem := Txu.advanced_rem hfrag
  have hsum' := Txu.advanced_total hfrag hsum
  have hleft : t.advanced.rem.toNat ≠ 0 := fun e => hmore (BitVec.eq_of_toNat_eq e)
  refine ⟨hcnt, hfits, ?_, ?_, hmore⟩
  · show t.advanced.total.toNat = (t.i + 1) * p.capTx
    rw [hsum', htotal, Nat.succ_mul]
    omega
  · show t.advanced.total.toNat + t.advanced.rem.toNat = t.len.toNat
    omega

/-- With nothing remaining, the fragment staged was the last of those counted. -/
theorem Txu.staging.finished {t : Txu} {p : Params} (h : t.staging p) (hcap : 1 ≤ p.capTx)
    (hfrag : t.frag = min t.rem.toNat p.capTx) (hnone : t.advanced.rem = 0#32) : t.advanced.staged p := by
  obtain ⟨hcnt, hfits, htotal, hsum, hne⟩ := h
  have hrem := Txu.advanced_rem hfrag
  have hsum' := Txu.advanced_total hfrag hsum
  have hpos : t.rem.toNat ≠ 0 := fun e => hne (BitVec.eq_of_toNat_eq e)
  have hall : t.rem.toNat = t.frag := by
    rw [hnone] at hrem
    have : (0#32).toNat = 0 := rfl
    omega
  have hlast : t.cnt = t.i + 1 := by
    rw [hcnt]
    exact ceilDiv_eq_succ hcap (by omega) (by rw [Nat.succ_mul]; omega)
  refine ⟨hcnt, hfits, hlast.symm, hnone, BitVec.eq_of_toNat_eq ?_, fun e => ?_⟩
  · show t.advanced.total.toNat = t.len.toNat
    omega
  · have hlen : t.len.toNat = 0 := congrArg BitVec.toNat e
    omega

/-- `T_CHECK` begins the staging of a frame that has bytes and fits the ring (R161, R172). -/
theorem txuCheck_txuInv {s : State} (hw : s.par.wf = true) : TxuInv (txuCheck s) := by
  obtain ⟨-, -, hcap, -⟩ := Params.wf_rings hw
  by_cases hlong : s.par.nTx < ceilDiv s.txu.len.toNat s.par.capTx
  · rw [txuCheck_long hlong]
    exact .of_rest (.inl rfl)
  · by_cases hempty : ceilDiv s.txu.len.toNat s.par.capTx = 0
    · rw [txuCheck_empty hempty]
      exact .of_rest (.inl rfl)
    · rw [txuCheck_counted (Nat.not_lt.1 hlong) hempty]
      have hlen : s.txu.len ≠ 0#32 := fun e => hempty ((ceilDiv_eq_zero hcap _).2 (congrArg BitVec.toNat e))
      exact ⟨rfl, Nat.not_lt.1 hlong, (Nat.zero_mul _).symm, Nat.zero_add _, hlen⟩

theorem TxuMove.txuInv {s t : State} (h : TxuMove s t) (hcheck : s.txu.state ≠ .check) (hw : s.par.wf = true) (hi : TxuInv s) :
    TxuInv t := by
  obtain ⟨-, -, hcap, -⟩ := Params.wf_rings hw
  cases h with
  | rest => exact hi
  | tooLong hs _ | empty hs _ | begin hs _ => exact absurd hs hcheck
  | found _ hs _ _ | clear _ hs _ | flagFirst _ hs _ | poll hs =>
    simp only [TxuInv, hs] at hi
    exact hi
  | copyStart buf hs hb hfree hfrag =>
    simp only [TxuInv, hs] at hi
    exact ⟨hi, rfl, rfl, rfl⟩
  | acquire hs hl =>
    simp only [TxuInv, hs] at hi
    obtain ⟨hstaging, hfrag, -⟩ := hi
    exact ⟨hstaging, hfrag⟩
  | record m next hs hm hn =>
    simp only [TxuInv, hs] at hi
    obtain ⟨hstaging, hfrag⟩ := hi
    by_cases hnone : s.txu.rem - BitVec.ofNat 32 s.txu.frag = 0#32
    · simp only [TxuInv, if_pos hnone]
      exact hstaging.finished hcap hfrag hnone
    · simp only [TxuInv, if_neg hnone]
      exact hstaging.advanced hfrag hnone
  | flagLast m m' hs hm hm' =>
    simp only [TxuInv, hs] at hi
    exact ⟨hi, Nat.zero_le _⟩
  | grant m next hs hj hm hn =>
    simp only [TxuInv, hs] at hi ⊢
    obtain ⟨hstaged, -⟩ := hi
    exact ⟨hstaged, hj⟩
  | granted hs hj =>
    simp only [TxuInv, hs] at hi
    obtain ⟨hstaged, -⟩ := hi
    exact hstaged
  | done hs => exact .of_rest (.inl rfl)

theorem txuStep_txuInv {s t : State} (hw : s.par.wf = true) (hi : TxuInv s) (h : txuStep s = .next t) : TxuInv t := by
  by_cases hcheck : s.txu.state = .check
  · cases (txuStep_check hcheck).symm.trans h
    exact txuCheck_txuInv hw
  · exact (txuStep_move h).txuInv hcheck hw hi

/-- Whoever's turn it is, TXU's registers are again those of a `SEND` in progress. -/
theorem turnStep_txuInv {u : Turn} {s t : State} (hw : s.par.wf = true) (hi : TxuInv s) (h : turnStep u s = .next t) : TxuInv t := by
  by_cases hown : u = .txu
  · subst hown
    exact txuStep_txuInv hw hi h
  · by_cases hreset : u = .reset
    · subst hreset
      cases h
      exact .of_rest (.inl rfl)
    · exact (turnStep_left hown hreset h).txuInv hi

/-! The payload's place (R166). -/

/-- `t` is still about the frame `s` is about, its payload in the same place. -/
def SameFrame (s t : State) : Prop :=
  t.txu.first = s.txu.first ∧ t.txu.len = s.txu.len ∧ t.txu.cnt = s.txu.cnt ∧ t.txu.src - t.txu.total = s.txu.src - s.txu.total

theorem SendLeft.sameFrame {s t : State} (h : SendLeft s t) (hbusy : s.txu.state ≠ .idle) : SameFrame s t := by
  obtain hv | hc := h
  · have htxu : t.txu = s.txu := congrArg (fun v => v.2.1) hv
    rw [SameFrame, htxu]
    exact ⟨rfl, rfl, rfl, rfl⟩
  · exact absurd hc.idle hbusy

/-- Only `T_RECORD` moves `T.src`, and `T.total` by as much. -/
theorem TxuMove.sameFrame {s t : State} (h : TxuMove s t) (hcheck : s.txu.state ≠ .check) : SameFrame s t := by
  cases h with
  | begin hs _ => exact absurd hs hcheck
  | record m next hs hm hn => exact ⟨rfl, rfl, rfl, add_sub_add_right_eq_sub _ _ _⟩
  | _ => exact ⟨rfl, rfl, rfl, rfl⟩

theorem turnStep_sameFrame {u : Turn} {s t : State} (hreset : u ≠ .reset) (hbusy : s.txu.state ≠ .idle)
    (hcheck : s.txu.state ≠ .check) (h : turnStep u s = .next t) : SameFrame s t := by
  by_cases hown : u = .txu
  · subst hown
    exact (txuStep_move h).sameFrame hcheck
  · exact (turnStep_left hown hreset h).sameFrame hbusy

/-! The slots (R169, R173). -/

theorem Params.txd_zero (p : Params) : p.txd 0 = p.txdBase := BitVec.add_zero _

theorem SendLeft.txWalk {s t : State} (h : SendLeft s t) (hw : s.par.wf = true) (hwalk : s.txWalk) : t.txWalk := by
  obtain hv | hc := h
  · simp only [State.sendView, Prod.mk.injEq] at hv
    obtain ⟨hpar, htxu, hcur, -⟩ := hv
    exact State.txWalk_of_view (by rw [State.txView, State.txView, hpar, htxu, hcur]) hwalk
  · obtain ⟨hring, -⟩ := Params.wf_rings hw
    have hslot : t.txSlot t.txCur := by
      rw [State.txSlot, hc.par]
      obtain e | e := hc.cur
      · simp only [State.txWalk, hc.idle] at hwalk
        rw [e]
        exact hwalk
      · exact ⟨0, hring, e.trans (Params.txd_zero _).symm⟩
    obtain hs | hs | hs := hc.state <;> simp only [State.txWalk, hs] <;> exact hslot

/-- TXU's pointers follow the links of a closed ring (R112), which its own updates leave. -/
theorem TxuMove.txWalk {s t : State} (h : TxuMove s t) (hclosed : RingClosed s.mem s.par.txdBase s.par.nTx)
    (hwalk : s.txWalk) : t.txWalk := by
  cases h with
  | rest => exact hwalk
  | tooLong hs _ | empty hs _ | clear _ hs _ | copyStart _ hs _ _ _ | acquire hs _ | found _ hs _ _ | flagFirst _ hs _ | poll hs =>
    simp only [State.txWalk, hs] at hwalk
    exact hwalk
  | begin hs hcnt =>
    simp only [State.txWalk, hs] at hwalk
    obtain ⟨f, hf, hcur⟩ := hwalk
    exact ⟨f, hf, hcur, hcur.trans (congrArg s.par.txd (ring_start hf).symm)⟩
  | record m next hs hm hn =>
    simp only [State.txWalk, hs] at hwalk
    obtain ⟨f, hlt, hfirst, hcur⟩ := hwalk
    have hnext : next = s.par.txd ((f + (s.txu.i + 1)) % s.par.nTx) :=
      hclosed.next_from (Nat.zero_lt_of_lt hlt) hcur ((State.loadW3_updateW1 hm).symm.trans hn)
    by_cases hnone : s.txu.rem - BitVec.ofNat 32 s.txu.frag = 0#32
    · simp only [State.txWalk, if_pos hnone]
      exact ⟨f, ⟨hlt, hfirst, hnext⟩, hcur⟩
    · simp only [State.txWalk, if_neg hnone]
      exact ⟨f, hlt, hfirst, hnext⟩
  | flagLast m m' hs hm hm' =>
    simp only [State.txWalk, hs] at hwalk
    obtain ⟨f, hf, -⟩ := hwalk
    exact ⟨f, hf, hf.2.1.trans (congrArg s.par.txd (ring_start hf.1).symm)⟩
  | grant m next hs hj hm hn =>
    simp only [State.txWalk, hs] at hwalk ⊢
    obtain ⟨f, hf, hg⟩ := hwalk
    exact ⟨f, hf, hclosed.next_from (Nat.zero_lt_of_lt hf.1) hg ((State.loadW3_updateW0 hm).symm.trans hn)⟩
  | granted hs hj =>
    simp only [State.txWalk, hs] at hwalk
    obtain ⟨f, hf, -⟩ := hwalk
    exact ⟨f, hf⟩
  | done hs =>
    simp only [State.txWalk, hs] at hwalk
    obtain ⟨f, hf⟩ := hwalk
    exact State.txFrom_cur_slot hf

theorem turnStep_txWalk {u : Turn} {s t : State} (hreset : u ≠ .reset) (hw : s.par.wf = true)
    (hclosed : RingClosed s.mem s.par.txdBase s.par.nTx) (hwalk : s.txWalk) (h : turnStep u s = .next t) : t.txWalk := by
  by_cases hown : u = .txu
  · subst hown
    exact (txuStep_move h).txWalk hclosed hwalk
  · exact (turnStep_left hown hreset h).txWalk hw hwalk

/-! One step. -/

theorem TxuInv.done {s : State} (h : TxuInv s) (hs : s.txu.state = .done) : s.txu.total = s.txu.len ∧ s.txu.i = s.txu.cnt := by
  simp only [TxuInv, hs] at h
  obtain ⟨-, -, hi, -, htotal, -⟩ := h
  exact ⟨htotal, hi⟩

/-- Choosing the turn changes the list of turns or the count of free values. -/
theorem State.takeTurn_frame (s : State) : s.takeTurn = { s with sched := s.takeTurn.sched, draws := s.takeTurn.draws } := by
  unfold State.takeTurn
  split <;> rfl

/-- The law of fragmentation over one turn. -/
theorem turnStep_fragmentation {u : Turn} {s t : State} (hw : s.par.wf = true) (hi : TxuInv s) (h : turnStep u s = .next t) :
    TxuInv t ∧ (t.txu.state = .done → t.txu.total = t.txu.len ∧ t.txu.i = t.txu.cnt)
      ∧ (u ≠ .reset → (s.txu.state ≠ .idle → s.txu.state ≠ .check → SameFrame s t)
        ∧ (RingClosed s.mem s.par.txdBase s.par.nTx → s.txWalk → t.txWalk)) :=
  have hit := turnStep_txuInv hw hi h
  ⟨hit, hit.done, fun hreset => ⟨fun hbusy hcheck => turnStep_sameFrame hreset hbusy hcheck h,
    fun hclosed hwalk => turnStep_txWalk hreset hw hclosed hwalk h⟩⟩

/-- Settles O52: TXU's moves keep the law, the payload's place and the slots, and no other agent's turn reaches them. -/
theorem everyStepKeepsFragmentation : Obligations.EveryStepKeepsFragmentation := by
  intro s t hw hi h
  rw [step, s.takeTurn_frame] at h
  exact turnStep_fragmentation (s := { s with sched := s.takeTurn.sched, draws := s.takeTurn.draws }) hw hi h

end Sys2Proof.Machine
end

section
/-! PROOFS. A `SEND` of one fragment from the command to the report (R160 to R176, R231): what the turns before the transfer, of the
transfer and after it make of the state. -/

namespace Sys2Proof.Machine
open Sys2Proof

/-! The first two words of a descriptor. -/

/-- `m'` is `m` with `W0` and `W1` of the descriptor at `d` as said, all else as it was. -/
structure HeadSet (m m' : Memory) (d w0 w1 : Word) : Prop where
  wf : m'.wf = true
  word0 : m'.wordAt d.toNat = w0
  word1 : m'.wordAt (d + 4#32).toNat = w1
  outside : SameOutside m m' d.toNat 8

theorem HeadSet.refl {m : Memory} (hm : m.wf = true) (d : Word) : HeadSet m m d (m.wordAt d.toNat) (m.wordAt (d + 4#32).toNat) :=
  ⟨hm, rfl, rfl, fun _ _ => rfl⟩

theorem w1Addr_toNat {d : Word} (hd : d.toNat + 16 ≤ 4294967296) : (d + 4#32).toNat = d.toNat + 4 :=
  have ⟨_, h1, _, _⟩ := wordAddrs hd
  h1

/-- An update of `W0` on top. -/
theorem HeadSet.setW0 {m m' m'' : Memory} {d w0 w1 : Word} {f : Word → Word} (h : HeadSet m m' d w0 w1)
    (hd : d.toNat + 16 ≤ 4294967296) (h' : WordSet m' m'' d (f (m'.wordAt d.toNat))) : HeadSet m m'' d (f w0) w1 where
  wf := h'.wf
  word0 := h'.word.trans (congrArg f h.word0)
  word1 := (h'.outside.wordAt (by rw [w1Addr_toNat hd]; omega)).trans h.word1
  outside x hx := (h'.outside x (by omega)).trans (h.outside x hx)

/-- An update of `W1` on top. -/
theorem HeadSet.setW1 {m m' m'' : Memory} {d w0 w1 : Word} {f : Word → Word} (h : HeadSet m m' d w0 w1)
    (hd : d.toNat + 16 ≤ 4294967296) (h' : WordSet m' m'' (d + 4#32) (f (m'.wordAt (d + 4#32).toNat))) :
    HeadSet m m'' d w0 (f w1) where
  wf := h'.wf
  word0 := (h'.outside.wordAt (by rw [w1Addr_toNat hd]; omega)).trans h.word0
  word1 := h'.word.trans (congrArg f h.word1)
  outside x hx := (h'.outside x (by rw [w1Addr_toNat hd]; omega)).trans (h.outside x hx)

/-- The descriptor's other two words stay. -/
theorem HeadSet.link {m m' : Memory} {d w0 w1 : Word} (h : HeadSet m m' d w0 w1) (hd : d.toNat + 16 ≤ 4294967296) :
    m'.wordAt (w3Addr d).toNat = m.wordAt (w3Addr d).toNat := by
  obtain ⟨-, -, -, h3⟩ := wordAddrs hd
  exact h.outside.wordAt (by omega)

theorem State.loadWord_kept {s t : State} {a : Word} (hpar : t.par = s.par)
    (hword : t.mem.wordAt a.toNat = s.mem.wordAt a.toNat) : t.loadWord a = s.loadWord a := by
  rw [State.loadWord, State.loadWord, State.admitsWord, State.admitsWord, hpar, hword]

/-! The words of the descriptor that carries a whole frame (R86, R87). -/

theorem clearStatus_of_sw {w : Word} (h : own w = false) : clearStatus w = 0#32 := by
  have hbit : ¬w.getLsbD 31 = true := Bool.eq_false_iff.1 h
  exact (BitVec.and_twoPow w 31).trans (if_neg hbit)

/-- `W1` as initialised but for `BL` and `IOC`, recorded and flagged: the length does not reach the bits beside it. -/
theorem setIoc_recordLen {w : Word} {n : Nat} (hw : w.toNat / 65536 % 32768 = 0x6000) (hn : n ≤ 65535) :
    setIoc (recordLen w n) = 0xE0000000#32 + BitVec.ofNat 32 n := by
  have hkept : w &&& 0x7FFF0000#32 = 0x60000000#32 := by
    refine BitVec.eq_of_toNat_eq ?_
    rw [BitVec.toNat_and]
    exact (and_fieldMask w.toNat 16 15).trans (congrArg (· * 65536) hw)
  calc setIoc (recordLen w n) = (0x60000000#32 ||| 0x80000000#32) ||| BitVec.ofNat 32 n := by
        rw [setIoc, recordLen, hkept, BitVec.or_assoc, BitVec.or_comm (BitVec.ofNat 32 n), BitVec.or_assoc]
    _ = BitVec.ofNat 32 (2 ^ 29 * 7 ||| n) := by rw [BitVec.ofNat_or]; rfl
    _ = BitVec.ofNat 32 (2 ^ 29 * 7 + n) := congrArg _ (Nat.two_pow_add_eq_or_of_lt (by omega) 7).symm
    _ = 0xE0000000#32 + BitVec.ofNat 32 n := BitVec.ofNat_add _ _

/-! One turn after another. -/

/-- An agent has the next turn, and takes its step. -/
theorem run_turn {u : Turn} {s t : State} {q : List HostOp} {ts : List Turn}
    (h : turnStep u (s.queued q ts) = .next (t.queued q ts)) (k : Nat) :
    Host.Core.run core (k + 1) (s.queued q (u :: ts)) = Host.Core.run core k (t.queued q ts) := by
  have hstep : core.step (s.queued q (u :: ts)) = .next (t.queued q ts) := h
  simp only [Host.Core.run, hstep]

theorem run_txu {s t : State} {q : List HostOp} {ts : List Turn} (h : txuStep (s.queued q ts) = .next (t.queued q ts)) (k : Nat) :
    Host.Core.run core (k + 1) (s.queued q (.txu :: ts)) = Host.Core.run core k (t.queued q ts) := run_turn (u := .txu) h k

/-! From the command to the start of the transfer (R160 to R164). -/

/-- What a `SEND` of one fragment starts from: an idle TXU and synchronizer, a software-owned descriptor at the cursor with its buffer and
link, and a payload, a buffer and a descriptor that keep off one another. -/
structure OneFragment (s : State) (buf next : Word) : Prop where
  params : s.par.wf = true
  memory : s.mem.wf = true
  sync : SyncInv s
  irqEn : s.irqEn = true
  idle : s.busy .txu = false
  nonempty : 1 ≤ s.arg1.toNat
  fits : s.arg1.toNat ≤ s.par.capTx
  descEnd : s.txCur.toNat + 16 ≤ 4294967296
  admits0 : s.admitsWord s.txCur = true
  admits1 : s.admitsWord (s.txCur + 4#32) = true
  buffer : s.loadW2 s.txCur = some buf
  link : s.loadW3 s.txCur = some next
  software : own (s.mem.wordAt s.txCur.toNat) = false
  static : (s.mem.wordAt (s.txCur + 4#32).toNat).toNat / 65536 % 32768 = 0x6000
  payloadMapped : s.par.mappedRange s.arg0.toNat s.arg1.toNat = true
  bufferMapped : s.par.mappedRange buf.toNat s.arg1.toNat = true
  payloadOffBuffer : s.arg0.toNat + s.arg1.toNat ≤ buf.toNat ∨ buf.toNat + s.arg1.toNat ≤ s.arg0.toNat
  payloadOffDesc : s.arg0.toNat + s.arg1.toNat ≤ s.txCur.toNat ∨ s.txCur.toNat + 16 ≤ s.arg0.toNat
  bufferOffDesc : buf.toNat + s.arg1.toNat ≤ s.txCur.toNat ∨ s.txCur.toNat + 16 ≤ buf.toNat

theorem OneFragment.quiet {s : State} {buf next : Word} (h : OneFragment s buf next) :
    s.copy.busy = false ∧ s.tcFlag = false ∧ s.locked = true := by
  obtain ⟨-, -, hsync⟩ := h.sync
  rwa [if_neg (by simp [State.txu_idle_of_not_busy h.idle])] at hsync

/-- The `SEND` has been accepted. -/
def State.accepted (s : State) : State :=
  { s with cmdFault := .noFault, txu := { s.txu with src := s.arg0, len := s.arg1, state := .check } }

/-- The `SEND` has been counted as one fragment, TXU in the state `st`. -/
def State.counted (s : State) (st : TxuState) : State :=
  { s with cmdFault := .noFault, txu := { s.txu with src := s.arg0, len := s.arg1, cnt := 1, i := 0, rem := s.arg1, total := 0#32,
                                                     first := s.txCur, state := st } }

/-- The transfer to the buffer at `buf` has been started, the memory being `m`. -/
def State.started (s : State) (m : Memory) (buf : Word) : State :=
  { s.counted .acquire with
    mem := m, txu := { (s.counted .acquire).txu with frag := s.arg1.toNat },
    copy := { s.copy with busy := true, src := s.arg0, dst := buf, len := s.arg1.toNat, payload := s.arg0 - 0#32, payloadLen := s.arg1 },
    events := s.events ++ [.copyStart s.arg0 buf s.arg1.toNat] }

theorem hostStep_send {s : State} (h : s.busy .txu = false) (q : List HostOp) (ts : List Turn) :
    hostStep (s.queued (.regWrite 0x00 4 (encode .send) :: q) ts) = .next (s.accepted.queued q ts) :=
  (hostStep_command rfl s q ts).trans (execSend_accepted (s := s.queued q ts) h)

theorem OneFragment.check {s : State} {buf next : Word} (h : OneFragment s buf next) (q : List HostOp) (ts : List Turn) :
    txuStep (s.accepted.queued q ts) = .next ((s.counted .waitOwn).queued q ts) := by
  obtain ⟨hring, -, hcap, -⟩ := Params.wf_rings h.params
  have hpos := h.nonempty
  have hfits := h.fits
  have hone : ceilDiv (s.accepted.queued q ts).txu.len.toNat (s.accepted.queued q ts).par.capTx = 1 :=
    ceilDiv_eq_succ hcap ((Nat.zero_mul _).trans_lt hpos) (hfits.trans_eq (Nat.one_mul _).symm)
  rw [txuStep_check rfl, txuCheck_counted (hone ▸ hring) (hone ▸ Nat.one_ne_zero), hone]
  rfl

theorem OneFragment.found {s : State} {buf next : Word} (h : OneFragment s buf next) (q : List HostOp) (ts : List Turn) :
    txuStep ((s.counted .waitOwn).queued q ts) = .next ((s.counted .clear).queued q ts) := by
  have hw : ((s.counted .waitOwn).queued q ts).loadW0 s.txCur = some (s.mem.wordAt s.txCur.toNat) :=
    State.loadWord_of_admits h.admits0
  rw [txuStep_waitOwn rfl, txuWaitOwn_loaded hw, if_neg (Bool.eq_false_iff.1 h.software)]
  rfl

theorem OneFragment.copyStart {s : State} {buf next w0 w1 : Word} {m : Memory} (h : OneFragment s buf next)
    (hm : HeadSet s.mem m s.txCur w0 w1) (q : List HostOp) (ts : List Turn) :
    txuStep (((s.counted .copyStart).withMem m).queued q ts) = .next ((s.started m buf).queued q ts) := by
  obtain ⟨-, -, h2, -⟩ := wordAddrs h.descEnd
  obtain ⟨hfree, -⟩ := h.quiet
  have hword : m.wordAt (w2Addr s.txCur).toNat = s.mem.wordAt (w2Addr s.txCur).toNat := hm.outside.wordAt (by omega)
  have hkept : (((s.counted .copyStart).withMem m).queued q ts).loadW2 s.txCur = s.loadW2 s.txCur := State.loadWord_kept rfl hword
  have hbuf := hkept.trans h.buffer
  have hfrag : (((s.counted .copyStart).withMem m).queued q ts).fragLen = s.arg1.toNat := Nat.min_eq_left h.fits
  rw [txuStep_copyStart rfl hbuf hfree (hfrag ▸ Nat.one_le_iff_ne_zero.1 h.nonempty), hfrag]
  rfl

/-- The five turns up to `T_ACQUIRE` clear the descriptor's status and start the transfer. -/
theorem OneFragment.run_start {s : State} {buf next : Word} (h : OneFragment s buf next) (q : List HostOp) (ts : List Turn) (k : Nat) :
    ∃ m, Host.Core.run core (k + 5) (s.queued (.regWrite 0x00 4 (encode .send) :: q) (.host :: .txu :: .txu :: .txu :: .txu :: ts))
        = Host.Core.run core k ((s.started m buf).queued q ts)
      ∧ HeadSet s.mem m s.txCur 0#32 (s.mem.wordAt (s.txCur + 4#32).toNat) := by
  obtain ⟨m, hclear, hset⟩ := txuStep_clear (s := (s.counted .clear).queued q (.txu :: ts)) h.memory rfl h.admits0
  have hhead := (HeadSet.refl h.memory s.txCur).setW0 h.descEnd hset
  rw [clearStatus_of_sw h.software] at hhead
  refine ⟨m, ?_, hhead⟩
  calc _ = Host.Core.run core (k + 4) (s.accepted.queued q (.txu :: .txu :: .txu :: .txu :: ts)) :=
        run_host (hostStep_send h.idle q _) _
    _ = Host.Core.run core (k + 3) ((s.counted .waitOwn).queued q (.txu :: .txu :: .txu :: ts)) := run_txu (h.check q _) _
    _ = Host.Core.run core (k + 2) ((s.counted .clear).queued q (.txu :: .txu :: ts)) := run_txu (h.found q _) _
    _ = Host.Core.run core (k + 1) (((s.counted .copyStart).withMem m).queued q (.txu :: ts)) := run_txu hclear _
    _ = _ := run_txu (h.copyStart hhead q ts) k

/-! The transfer (R165, R221, R222, R225, R226). -/

/-- COPY has performed the transfer, the memory being `m`. -/
def State.copied (s : State) (m : Memory) : State :=
  { s with mem := m, copy := { s.copy with busy := false, tc := s.copy.tc.set s.par.copyCh true },
           events := s.events ++ [.copyDone s.copy.src s.copy.dst s.copy.len] }

/-- The handler has released the synchronizer. -/
def State.released (s : State) : State :=
  { s with copy := { s.copy with tc := s.copy.tc.set s.par.copyCh false }, locked := false, events := s.events ++ [.syncRelease] }

/-- TXU has acquired it. -/
def State.acquired (s : State) : State :=
  { s with locked := true, events := s.events ++ [.syncAcquire], txu := { s.txu with state := .record } }

/-- COPY's step where the payload and both ends of the transfer are mapped and do not overlap. -/
theorem copyStep_moves {s : State} (hm : s.mem.wf = true) (hbusy : s.copy.busy = true)
    (hpay : s.par.mappedRange s.copy.payload.toNat s.copy.payloadLen.toNat = true)
    (hdst : s.par.mappedRange s.copy.dst.toNat s.copy.len = true) (hsrc : s.par.mappedRange s.copy.src.toNat s.copy.len = true)
    (hoff : rangesOverlap s.copy.dst.toNat s.copy.src.toNat s.copy.len = false) :
    ∃ m, copyStep s = some (s.copied m) ∧ m.wf = true
      ∧ (∀ i, i < s.copy.len → m.read (s.copy.dst.toNat + i) = s.mem.read (s.copy.src.toNat + i))
      ∧ SameOutside s.mem m s.copy.dst.toNat s.copy.len := by
  obtain ⟨t, ht⟩ := State.memCopy_enabled hdst hsrc
  obtain ⟨-, hmem, hwf, hout, hcopied⟩ := State.memCopy_some ht
  obtain ⟨hdraws, hbytes⟩ := hcopied hoff
  rw [hdraws, Nat.sub_self] at hmem
  obtain ⟨m, rfl⟩ : ∃ m, t = s.withMem m := ⟨t.mem, hmem⟩
  refine ⟨m, ?_, hwf hm, hbytes hm, hout⟩
  rw [copyStep, if_pos (by rw [hbusy, hpay]; rfl), ht, Option.bind_some]
  rfl

/-- IRQ's step where a completion waits and the slot is empty. -/
theorem irqStep_releases {s : State} (hirq : s.irqEn = true) (htc : s.tcFlag = true) (hlocked : s.locked = true) :
    irqStep s = some s.released := by
  rw [irqStep, if_pos (by rw [hirq, htc]; rfl), State.release]
  exact congrArg some (if_pos hlocked)

theorem txuStep_acquire {s : State} (hs : s.txu.state = .acquire) (hl : s.locked = false) :
    txuStep s = .next s.acquired := by
  simp only [txuStep, hs, txuAcquire, hl]
  rfl

/-- The state `T_RECORD` finds, the memory being `m` at the start of the transfer and `m'` after it. -/
def State.staged (s : State) (m m' : Memory) (buf : Word) : State := ((s.started m buf).copied m').released.acquired

/-- The three turns of the transfer: performed, released, acquired. -/
theorem OneFragment.run_transfer {s : State} {buf next : Word} {m : Memory} (h : OneFragment s buf next) (hm : m.wf = true)
    (q : List HostOp) (ts : List Turn) (k : Nat) :
    ∃ m', Host.Core.run core (k + 3) ((s.started m buf).queued q (.copy :: .irq :: .txu :: ts))
        = Host.Core.run core k ((s.staged m m' buf).queued q ts)
      ∧ m'.wf = true ∧ (∀ i, i < s.arg1.toNat → m'.read (buf.toNat + i) = m.read (s.arg0.toNat + i))
      ∧ SameOutside m m' buf.toNat s.arg1.toNat := by
  obtain ⟨-, -, hlocked⟩ := h.quiet
  obtain ⟨hch, -⟩ := h.sync
  have hpay : s.par.mappedRange (s.arg0 - 0#32).toNat s.arg1.toNat = true := by
    rw [BitVec.sub_zero]
    exact h.payloadMapped
  have hoff : rangesOverlap buf.toNat s.arg0.toNat s.arg1.toNat = false := by
    have := h.payloadOffBuffer
    simp only [rangesOverlap, Bool.and_eq_false_iff, decide_eq_false_iff_not]
    omega
  obtain ⟨m', hcopy, hcopied⟩ := copyStep_moves (s := (s.started m buf).queued q (.irq :: .txu :: ts)) hm rfl hpay h.bufferMapped
    h.payloadMapped hoff
  have htc : ((s.started m buf).copied m').tcFlag = true := by
    show (s.copy.tc.set s.par.copyCh true).getD s.par.copyCh false = true
    rw [List.getD_eq_getElem _ _ (by rwa [List.length_set]), List.getElem_set_self]
  have hperformed : turnStep .copy ((s.started m buf).queued q (.irq :: .txu :: ts))
      = .next (((s.started m buf).copied m').queued q (.irq :: .txu :: ts)) := congrArg (enabledOr _) hcopy
  have hreleased : turnStep .irq (((s.started m buf).copied m').queued q (.txu :: ts))
      = .next (((s.started m buf).copied m').released.queued q (.txu :: ts)) :=
    congrArg (enabledOr _) (irqStep_releases (s := ((s.started m buf).copied m').queued q (.txu :: ts)) h.irqEn htc hlocked)
  have hacquired : txuStep (((s.started m buf).copied m').released.queued q ts)
      = .next ((s.staged m m' buf).queued q ts) := txuStep_acquire rfl rfl
  exact ⟨m', (run_turn hperformed _).trans ((run_turn hreleased _).trans (run_txu hacquired k)), hcopied⟩

/-! Recording and flags, when the fragment is the frame's only one (R166 to R168). -/

/-- The fragment at the cursor has been recorded, TXU in the state `st`, the memory being `m`. -/
def State.recorded (s : State) (m : Memory) (next : Word) (st : TxuState) : State :=
  { s with mem := m, txCur := next, txu := { s.txu with
      last := s.txCur, src := s.txu.src + BitVec.ofNat 32 s.txu.frag, rem := s.txu.rem - BitVec.ofNat 32 s.txu.frag,
      total := s.txu.total + BitVec.ofNat 32 s.txu.frag, i := s.txu.i + 1, state := st } }

/-- The flags have been set, and granting starts at the frame's first descriptor. -/
def State.flagged (s : State) : State := { s with txu := { s.txu with g := s.txu.first, j := 0, state := .grant } }

/-- The three turns from `T_RECORD` to `T_GRANT`, of a frame whose first descriptor is its last. -/
theorem run_flags {s : State} {next : Word} (hm : s.mem.wf = true) (hs : s.txu.state = .record) (hfirst : s.txu.first = s.txCur)
    (hlast : s.txu.rem = BitVec.ofNat 32 s.txu.frag) (hd : s.txCur.toNat + 16 ≤ 4294967296) (h0 : s.admitsWord s.txCur = true)
    (h1 : s.admitsWord (s.txCur + 4#32) = true) (hn : s.loadW3 s.txCur = some next) (q : List HostOp) (ts : List Turn) (k : Nat) :
    ∃ m, Host.Core.run core (k + 3) (s.queued q (.txu :: .txu :: .txu :: ts))
        = Host.Core.run core k ((s.recorded m next .flagLast).flagged.queued q ts)
      ∧ HeadSet s.mem m s.txCur (setSegLast (setSegFirst (s.mem.wordAt s.txCur.toNat)))
          (setIoc (recordLen (s.mem.wordAt (s.txCur + 4#32).toNat) s.txu.frag)) := by
  obtain ⟨m1, hrecord, hset1⟩ := txuStep_record (s := s.queued q (.txu :: .txu :: ts)) hm hs h1 hn
  have hhead1 := (HeadSet.refl hm s.txCur).setW1 (f := fun w => recordLen w s.txu.frag) hd hset1
  have hend : (s.queued q (.txu :: .txu :: ts)).txu.rem = BitVec.ofNat 32 (s.queued q (.txu :: .txu :: ts)).txu.frag := hlast
  rw [if_pos hend] at hrecord
  have hrecorded : txuStep (s.queued q (.txu :: .txu :: ts))
      = .next ((s.recorded m1 next .flagFirst).queued q (.txu :: .txu :: ts)) := hrecord
  obtain ⟨m2, hflagFirst, hset2⟩ := txuStep_flagFirst (s := (s.recorded m1 next .flagFirst).queued q (.txu :: ts)) hhead1.wf rfl
    (hfirst ▸ h0)
  have hset2' : WordSet m1 m2 s.txCur (setSegFirst (m1.wordAt s.txCur.toNat)) := hfirst ▸ hset2
  have hhead2 := hhead1.setW0 hd hset2'
  obtain ⟨m3, m4, hflagLast, hset3, hset4⟩ := txuStep_flagLast (s := (s.recorded m2 next .flagLast).queued q ts) hhead2.wf rfl h0 h1
  have hhead4 := (hhead2.setW0 hd hset3).setW1 hd hset4
  have hfirstFlag : txuStep ((s.recorded m1 next .flagFirst).queued q (.txu :: ts))
      = .next ((s.recorded m2 next .flagLast).queued q (.txu :: ts)) := hflagFirst
  have hlastFlag : txuStep ((s.recorded m2 next .flagLast).queued q ts)
      = .next ((s.recorded m4 next .flagLast).flagged.queued q ts) := hflagLast
  exact ⟨m4, (run_txu hrecorded _).trans ((run_txu hfirstFlag _).trans (run_txu hlastFlag k)), hhead4⟩

/-! The grant, the poll signal and the report (R169 to R171). -/

/-- The descriptor at `T.g` has been granted, TXU in the state `st`, the memory being `m`. -/
def State.granted (s : State) (m : Memory) (next : Word) (st : TxuState) : State :=
  { s with mem := m, txu := { s.txu with g := next, j := s.txu.j + 1, state := st } }

/-- The poll signal has been given, TXU in the state `st`. -/
def State.polled (s : State) (st : TxuState) : State :=
  { s with dma := { s.dma with txRun := true }, events := s.events ++ [.txPoll], txu := { s.txu with state := st } }

/-- The total has been reported. -/
def State.reported (s : State) : State := { s.polled .idle with txResult := s.txu.total, txCode := .ok }

theorem txuStep_poll {s : State} (hs : s.txu.state = .poll) : txuStep s = .next (s.polled .done) := by
  simp only [txuStep, hs]
  rfl

/-- The four turns from the last grant to the report. -/
theorem run_report {s : State} {next : Word} (hm : s.mem.wf = true) (hs : s.txu.state = .grant) (hcnt : s.txu.cnt = s.txu.j + 1)
    (ha : s.admitsWord s.txu.g = true) (hn : s.loadW3 s.txu.g = some next) (q : List HostOp) (ts : List Turn) (k : Nat) :
    ∃ m, Host.Core.run core (k + 4) (s.queued q (.txu :: .txu :: .txu :: .txu :: ts))
        = Host.Core.run core k ((s.granted m next .poll).reported.queued q ts)
      ∧ WordSet s.mem m s.txu.g (setOwn (s.mem.wordAt s.txu.g.toNat)) := by
  have hleft : s.txu.j < s.txu.cnt := by omega
  obtain ⟨m, hgrant, hset⟩ := txuStep_grant (s := s.queued q (.txu :: .txu :: .txu :: ts)) hm hs hleft ha hn
  have hgranted : txuStep (s.queued q (.txu :: .txu :: .txu :: ts))
      = .next ((s.granted m next .grant).queued q (.txu :: .txu :: .txu :: ts)) := by
    rw [hgrant, State.granted, ← hs]
    rfl
  have hall : txuStep ((s.granted m next .grant).queued q (.txu :: .txu :: ts))
      = .next ((s.granted m next .poll).queued q (.txu :: .txu :: ts)) := txuStep_granted rfl (Nat.le_of_eq hcnt)
  have hpoll : txuStep ((s.granted m next .poll).queued q (.txu :: ts))
      = .next (((s.granted m next .poll).polled .done).queued q (.txu :: ts)) := txuStep_poll rfl
  have hdone : txuStep (((s.granted m next .poll).polled .done).queued q ts)
      = .next ((s.granted m next .poll).reported.queued q ts) := txuStep_done rfl
  exact ⟨m, (run_txu hgranted _).trans ((run_txu hall _).trans ((run_txu hpoll _).trans (run_txu hdone k))), hset⟩

/-! The whole command. -/

/-- The seven turns from `T_RECORD` to the report, of a frame of one fragment. -/
theorem run_finish {s : State} {next : Word} (hm : s.mem.wf = true) (hs : s.txu.state = .record) (hfirst : s.txu.first = s.txCur)
    (hlast : s.txu.rem = BitVec.ofNat 32 s.txu.frag) (hcnt : s.txu.cnt = 1) (hd : s.txCur.toNat + 16 ≤ 4294967296)
    (h0 : s.admitsWord s.txCur = true) (h1 : s.admitsWord (s.txCur + 4#32) = true) (hn : s.loadW3 s.txCur = some next)
    (q : List HostOp) (ts : List Turn) :
    ∃ m, Host.Core.run core 7 (s.queued q (List.replicate 7 Turn.txu ++ ts))
        = .next (((s.recorded m next .flagLast).flagged.granted m next .poll).reported.queued q ts)
      ∧ HeadSet s.mem m s.txCur (setOwn (setSegLast (setSegFirst (s.mem.wordAt s.txCur.toNat))))
          (setIoc (recordLen (s.mem.wordAt (s.txCur + 4#32).toNat) s.txu.frag)) := by
  obtain ⟨m1, hflags, hhead⟩ := run_flags hm hs hfirst hlast hd h0 h1 hn q (List.replicate 4 Turn.txu ++ ts) 4
  have hg : (s.recorded m1 next .flagLast).flagged.txu.g = s.txCur := hfirst
  have hkept : (s.recorded m1 next .flagLast).flagged.loadW3 s.txCur = s.loadW3 s.txCur := State.loadWord_kept rfl (hhead.link hd)
  obtain ⟨m2, hreport, hset⟩ := run_report (s := (s.recorded m1 next .flagLast).flagged) hhead.wf rfl hcnt (hg ▸ h0)
    (hg ▸ hkept.trans hn) q ts 0
  rw [hg] at hset
  exact ⟨m2, hflags.trans hreport, hhead.setW0 hd hset⟩

/-- The memory after the descriptor was cleared (`m`), the payload copied (`m'`) and the descriptor written (`m''`). -/
theorem OneFragment.memory_after {s : State} {buf next : Word} {m m' m'' : Memory} (h : OneFragment s buf next)
    (hclear : HeadSet s.mem m s.txCur 0#32 (s.mem.wordAt (s.txCur + 4#32).toNat))
    (hbytes : ∀ i, i < s.arg1.toNat → m'.read (buf.toNat + i) = m.read (s.arg0.toNat + i))
    (hcopy : SameOutside m m' buf.toNat s.arg1.toNat)
    (hwrite : HeadSet m' m'' s.txCur (setOwn (setSegLast (setSegFirst (m'.wordAt s.txCur.toNat))))
      (setIoc (recordLen (m'.wordAt (s.txCur + 4#32).toNat) s.arg1.toNat))) :
    m''.wordAt s.txCur.toNat = 0xB0000000#32 ∧ m''.wordAt (s.txCur + 4#32).toNat = 0xE0000000#32 + s.arg1
      ∧ (∀ i, i < s.arg1.toNat → m''.read (buf.toNat + i) = s.mem.read (s.arg0.toNat + i))
      ∧ ∀ x, (x < s.txCur.toNat ∨ s.txCur.toNat + 8 ≤ x) → (x < buf.toNat ∨ buf.toNat + s.arg1.toNat ≤ x) →
          m''.read x = s.mem.read x := by
  obtain ⟨-, -, -, hcap, -⟩ := Params.wf_rings h.params
  have hlen := h.fits
  have hbuf := h.bufferOffDesc
  have hpay := h.payloadOffDesc
  have h1 := w1Addr_toNat h.descEnd
  have hword0 : m'.wordAt s.txCur.toNat = 0#32 := (hcopy.wordAt (by omega)).trans hclear.word0
  have hword1 : m'.wordAt (s.txCur + 4#32).toNat = s.mem.wordAt (s.txCur + 4#32).toNat :=
    (hcopy.wordAt (by omega)).trans hclear.word1
  refine ⟨?_, ?_, fun i hi => ?_, fun x hx hx' => ?_⟩
  · rw [hwrite.word0, hword0]
    decide
  · rw [hwrite.word1, hword1, setIoc_recordLen h.static (by omega), BitVec.ofNat_toNat, BitVec.setWidth_eq]
  · rw [hwrite.outside _ (by omega), hbytes i hi, hclear.outside _ (by omega)]
  · rw [hwrite.outside x hx, hcopy x hx', hclear.outside x hx]

/-- Settles O58: the five turns up to the start, the three of the transfer, the seven up to the report, and the memory they leave. -/
theorem oneFragmentSendCompletes : Obligations.OneFragmentSendCompletes := by
  intro s q ts buf next hw hm hsync hirq hidle hpos hfits hend h0 h1 hbuf hnext hsw hstatic hpayMap hbufMap hoff hpayOff hbufOff
  have h : OneFragment s buf next := ⟨hw, hm, hsync, hirq, hidle, hpos, hfits, hend, h0, h1, hbuf, hnext, hsw, hstatic, hpayMap, hbufMap,
    hoff, hpayOff, hbufOff⟩
  obtain ⟨-, -, -, hlink⟩ := wordAddrs hend
  obtain ⟨m1, hstart, hclear⟩ := h.run_start q (.copy :: .irq :: .txu :: (List.replicate 7 Turn.txu ++ ts)) 10
  obtain ⟨m2, htransfer, hm2, hbytes, hcopy⟩ := h.run_transfer hclear.wf q (List.replicate 7 Turn.txu ++ ts) 7
  have hkept : (s.staged m1 m2 buf).loadW3 s.txCur = s.loadW3 s.txCur :=
    State.loadWord_kept rfl ((hcopy.wordAt (by omega)).trans (hclear.link hend))
  have hlen : BitVec.ofNat 32 s.arg1.toNat = s.arg1 := by rw [BitVec.ofNat_toNat, BitVec.setWidth_eq]
  obtain ⟨m3, hfinish, hwrite⟩ :=
    run_finish (s := s.staged m1 m2 buf) hm2 rfl rfl hlen.symm rfl hend h0 h1 (hkept.trans hnext) q ts
  obtain ⟨hword0, hword1, hpayload, hframe⟩ := h.memory_after hclear hbytes hcopy hwrite
  refine ⟨_, hstart.trans (htransfer.trans hfinish), (BitVec.zero_add _).trans hlen, rfl, rfl, rfl, rfl, rfl, rfl, rfl,
    hword0, hword1, hpayload, hframe, ?_⟩
  show s.events ++ [_] ++ [_] ++ [_] ++ [_] ++ [_] = _
  simp only [List.append_assoc, List.cons_append, List.nil_append]
  rfl

end Sys2Proof.Machine
end

section
/-! PROOFS. The steps of RXU one by one (R190 to R200): what each makes of the state where its accesses are admitted. -/

namespace Sys2Proof.Machine
open Sys2Proof

/-! The two commands. -/

theorem execReceive_accepted {s : State} (block : Bool) (h : s.busy .rxu = false) : execReceive block s = .next { s with
    cmdFault := .noFault, rxu := { s.rxu with dst := s.arg0, max := s.arg1, blk := block, p := s.rxCur, k := 0, state := .scan } } := by
  rw [execReceive, if_neg (by simp [h])]
  rfl

/-- A command that ends in its accepting step leaves RXU idle, as it was. -/
theorem State.finishRx_of_idle {s : State} (h : s.rxu.state = .idle) (result : Word) (code : Code) :
    s.finishRx result code = { s with rxResult := result, rxCode := code } := by
  rw [State.finishRx, ← h]

theorem execPollRx_loaded {s : State} {w : Word} (h : s.busy .rxu = false) (hw : s.loadW0 s.rxCur = some w) :
    execPollRx s = .next { s with cmdFault := .noFault, rxCode := .ok, rxResult := if own w then 0#32 else 1#32 } := by
  rw [execPollRx, if_neg (by simp [h]), hw]
  exact congrArg _ (State.finishRx_of_idle (s := s.accept) (State.rxu_idle_of_not_busy h) _ _)

/-! `R_SCAN`. -/

theorem rxuStep_of_scan {s : State} (hs : s.rxu.state = .scan) : rxuStep s = enabledOr s (rxuScan s) := by simp only [rxuStep, hs]

section
variable {s : State} {w : Word} (hs : s.rxu.state = .scan) (hw : s.loadW0 s.rxu.p = some w)
include hs hw

theorem rxuStep_scan_waits (ho : own w = true) (hb : s.rxu.blk = true) : rxuStep s = .next s := by
  rw [rxuStep_of_scan hs, rxuScan, hw, Option.bind_some, if_pos ho, if_pos hb, enabledOr_some]

theorem rxuStep_scan_noData (ho : own w = true) (hb : s.rxu.blk = false) : rxuStep s = .next (s.finishRx 0#32 .noData) := by
  rw [rxuStep_of_scan hs, rxuScan, hw, Option.bind_some, if_pos ho, if_neg (Bool.eq_false_iff.1 hb), enabledOr_some]

theorem rxuStep_scan_last (ho : own w = false) (hl : segLast w = true) :
    rxuStep s = .next { s with rxu := { s.rxu with k := s.rxu.k + 1, fl := frameLen w, state := .len } } := by
  rw [rxuStep_of_scan hs, rxuScan, hw, Option.bind_some, if_neg (Bool.eq_false_iff.1 ho), if_pos hl, enabledOr_some]

theorem rxuStep_scan_exhausted (ho : own w = false) (hl : segLast w = false) (hk : s.rxu.k + 1 = s.par.nRx) :
    rxuStep s = .next { s with rxu := { s.rxu with
      k := s.rxu.k + 1, res := minus 5, code := .malformed, j := 0, state := .retire } } := by
  rw [rxuStep_of_scan hs, rxuScan, hw, Option.bind_some, if_neg (Bool.eq_false_iff.1 ho), if_neg (Bool.eq_false_iff.1 hl), if_pos hk,
    enabledOr_some]
  rfl

theorem rxuStep_scan_follows {next : Word} (ho : own w = false) (hl : segLast w = false) (hk : s.rxu.k + 1 ≠ s.par.nRx)
    (hn : s.loadW3 s.rxu.p = some next) :
    rxuStep s = .next { s with rxu := { s.rxu with k := s.rxu.k + 1, p := next } } := by
  rw [rxuStep_of_scan hs, rxuScan, hw, Option.bind_some, if_neg (Bool.eq_false_iff.1 ho), if_neg (Bool.eq_false_iff.1 hl), if_neg hk, hn,
    Option.bind_some, enabledOr_some]

end

theorem frameLen_toNat (w : Word) : (frameLen w).toNat = w.toNat / 16384 % 16384 := by simp [frameLen, Nat.shiftRight_eq_div_pow]

/-! `R_LEN`. -/

theorem rxuStep_of_len {s : State} (hs : s.rxu.state = .len) : rxuStep s = .next (rxuLen s) := by simp only [rxuStep, hs]

/-- The length field cannot be the length of a frame in the gathered buffers (R199). -/
def Rxu.badLength (r : Rxu) (p : Params) : Prop := r.fl.toNat < 4 ∨ r.k * p.capRx < r.fl.toNat

theorem rxuLen_malformed {s : State} (h : s.rxu.badLength s.par) : rxuLen s = s.retireWith (minus 5) .malformed := if_pos h

theorem rxuLen_probe {s : State} (h : ¬s.rxu.badLength s.par) (hd : s.rxu.dst = 0#32) : rxuLen s = { s with rxu := { s.rxu with
    n := s.rxu.fl.toNat - 4, res := BitVec.ofNat 32 (s.rxu.fl.toNat - 4), code := .ok, j := 0, state := .retire } } :=
  (if_neg h).trans (if_pos hd)

theorem rxuLen_overflow {s : State} (h : ¬s.rxu.badLength s.par) (hd : s.rxu.dst ≠ 0#32)
    (hmax : s.rxu.max.toNat < s.rxu.fl.toNat - 4) : rxuLen s = { s with rxu := { s.rxu with
    n := s.rxu.fl.toNat - 4, res := minus 2, code := .rxOverflow, j := 0, state := .retire } } :=
  (if_neg h).trans ((if_neg hd).trans (if_pos hmax))

theorem rxuLen_fits {s : State} (h : ¬s.rxu.badLength s.par) (hd : s.rxu.dst ≠ 0#32)
    (hmax : s.rxu.fl.toNat - 4 ≤ s.rxu.max.toNat) : rxuLen s = { s with rxu := { s.rxu with
    n := s.rxu.fl.toNat - 4, res := BitVec.ofNat 32 (s.rxu.fl.toNat - 4), code := .ok, q := s.rxCur, j := 0, copied := 0,
    state := .copy } } :=
  (if_neg h).trans ((if_neg hd).trans (if_neg (Nat.not_lt.2 hmax)))

/-! `R_COPY`. -/

theorem rxuStep_of_copy {s : State} (hs : s.rxu.state = .copy) : rxuStep s = enabledOr s (rxuCopy s) := by simp only [rxuStep, hs]

theorem rxuStep_copied {s : State} (hs : s.rxu.state = .copy) (hj : s.rxu.k ≤ s.rxu.j) :
    rxuStep s = .next { s with rxu := { s.rxu with j := 0, state := .retire } } := by
  rw [rxuStep_of_copy hs, rxuCopy, if_neg (Nat.not_lt.2 hj), enabledOr_some]

theorem rxuStep_copy_unmapped {s : State} (hs : s.rxu.state = .copy) (hj : s.rxu.j < s.rxu.k)
    (hmap : s.par.mappedRange s.rxu.dst.toNat s.rxu.max.toNat = false) : rxuStep s = .next s := by
  rw [rxuStep_of_copy hs, rxuCopy, if_pos hj, if_neg (Bool.eq_false_iff.1 hmap), enabledOr_none]

/-- `m'` is `m` with the `n` bytes at `src` moved to `dst`. -/
structure BytesMoved (m m' : Memory) (dst src n : Nat) : Prop where
  wf : m'.wf = true
  bytes : ∀ i, i < n → m'.read (dst + i) = m.read (src + i)
  outside : SameOutside m m' dst n

theorem rangesOverlap_of_apart {a b n : Nat} (h : n = 0 ∨ a + n ≤ b ∨ b + n ≤ a) : rangesOverlap a b n = false := by
  simp only [rangesOverlap, Bool.and_eq_false_iff, decide_eq_false_iff_not]
  omega

/-- `MemCopy` where both ranges are mapped and do not overlap (R11). -/
theorem State.memCopy_moves {s : State} {dst src : Word} {n : Nat} (hm : s.mem.wf = true)
    (hdst : s.par.mappedRange dst.toNat n = true) (hsrc : s.par.mappedRange src.toNat n = true)
    (hoff : n = 0 ∨ dst.toNat + n ≤ src.toNat ∨ src.toNat + n ≤ dst.toNat) :
    ∃ m, s.memCopy dst src n = some (s.withMem m) ∧ BytesMoved s.mem m dst.toNat src.toNat n := by
  obtain ⟨t, ht⟩ := State.memCopy_enabled hdst hsrc
  obtain ⟨-, hmem, hwf, hout, hcopied⟩ := State.memCopy_some ht
  obtain ⟨hdraws, hbytes⟩ := hcopied (rangesOverlap_of_apart hoff)
  rw [hdraws, Nat.sub_self] at hmem
  exact ⟨t.mem, ht.trans (congrArg some hmem), hwf hm, hbytes hm, hout⟩

/-- One descriptor's part: its bytes are moved, and the walk takes the link, which the destination keeps off. -/
theorem rxuStep_copy {s : State} {buf next : Word} (hm : s.mem.wf = true) (hs : s.rxu.state = .copy) (hj : s.rxu.j < s.rxu.k)
    (hmap : s.par.mappedRange s.rxu.dst.toNat s.rxu.max.toNat = true)
    (hb : s.loadW2 s.rxu.q = some buf) (hn : s.loadW3 s.rxu.q = some next)
    (hdst : s.par.mappedRange (s.rxu.dst + BitVec.ofNat 32 s.rxu.copied).toNat s.copyLen = true)
    (hsrc : s.par.mappedRange buf.toNat s.copyLen = true)
    (hoff : s.copyLen = 0 ∨ (s.rxu.dst + BitVec.ofNat 32 s.rxu.copied).toNat + s.copyLen ≤ buf.toNat
      ∨ buf.toNat + s.copyLen ≤ (s.rxu.dst + BitVec.ofNat 32 s.rxu.copied).toNat)
    (hlink : s.copyLen = 0 ∨ (s.rxu.dst + BitVec.ofNat 32 s.rxu.copied).toNat + s.copyLen ≤ (w3Addr s.rxu.q).toNat
      ∨ (w3Addr s.rxu.q).toNat + 4 ≤ (s.rxu.dst + BitVec.ofNat 32 s.rxu.copied).toNat) :
    ∃ m, rxuStep s = .next { s with
        mem := m, rxu := { s.rxu with copied := s.rxu.copied + s.copyLen, q := next, j := s.rxu.j + 1 } }
      ∧ BytesMoved s.mem m (s.rxu.dst + BitVec.ofNat 32 s.rxu.copied).toNat buf.toNat s.copyLen := by
  obtain ⟨m, hcopy, hmoved⟩ := State.memCopy_moves hm hdst hsrc hoff
  have hkept : (s.withMem m).loadW3 s.rxu.q = s.loadW3 s.rxu.q :=
    State.loadWord_kept rfl (Memory.wordAt_congr fun i hi => hmoved.outside _ (by omega))
  refine ⟨m, ?_, hmoved⟩
  rw [rxuStep_of_copy hs, rxuCopy, if_pos hj, if_pos hmap, hb, Option.bind_some, hcopy, Option.bind_some, hkept, hn]
  rfl

/-! `R_RETIRE` and `R_DONE`. -/

theorem rxuStep_of_retire {s : State} (hs : s.rxu.state = .retire) : rxuStep s = enabledOr s (rxuRetire s) := by
  simp only [rxuStep, hs]

theorem rxuStep_retired {s : State} (hs : s.rxu.state = .retire) (hj : s.rxu.k ≤ s.rxu.j) :
    rxuStep s = .next { s with rxu := { s.rxu with state := .done } } := by
  rw [rxuStep_of_retire hs, rxuRetire, if_neg (Nat.not_lt.2 hj)]
  rfl

theorem rxuStep_retire {s : State} {next : Word} (hm : s.mem.wf = true) (hs : s.rxu.state = .retire) (hj : s.rxu.j < s.rxu.k)
    (ha : s.admitsWord s.rxCur = true) (hn : s.loadW3 s.rxCur = some next) :
    ∃ m, rxuStep s = .next { s with mem := m, rxCur := next, rxu := { s.rxu with j := s.rxu.j + 1 } }
      ∧ WordSet s.mem m s.rxCur (setOwn (s.mem.wordAt s.rxCur.toNat)) := by
  obtain ⟨m, hu, hset⟩ := State.updateW0_sets setOwn hm ha
  refine ⟨m, ?_, hset⟩
  rw [rxuStep_of_retire hs, rxuRetire, if_pos hj, hu, Option.bind_some, State.loadW3_updateW0 hu, hn]
  rfl

theorem rxuStep_done {s : State} (hs : s.rxu.state = .done) :
    rxuStep s = .next { s with rxResult := s.rxu.res, rxCode := s.rxu.code, rxu := { s.rxu with state := .idle } } := by
  simp only [rxuStep, hs]
  rfl

/-! The statements. -/

/-- Settles O35: RXU is idle, so the command is not refused. -/
theorem receiveIsAccepted : Obligations.ReceiveIsAccepted := fun _ block => execReceive_accepted block

/-- Settles O36: the cursor's `W0` is read, and an idle RXU stays so. -/
theorem pollRxReportsOwnership : Obligations.PollRxReportsOwnership := fun _ hidle ha =>
  execPollRx_loaded hidle (State.loadWord_of_admits ha)

/-- Settles O37: the two modes on a descriptor read with `OWN` 1. -/
theorem hardwareOwnedMeansNoData : Obligations.HardwareOwnedMeansNoData := fun _ hs ha hown =>
  ⟨rxuStep_scan_waits hs (State.loadWord_of_admits ha) hown, rxuStep_scan_noData hs (State.loadWord_of_admits ha) hown⟩

/-- Settles O38: the three ends of a look at a descriptor read with `OWN` 0. -/
theorem scanGathersDescriptors : Obligations.ScanGathersDescriptors := by
  intro s hs ha hown
  have hw : s.loadW0 s.rxu.p = some _ := State.loadWord_of_admits ha
  exact ⟨fun hlast => ⟨_, rxuStep_scan_last hs hw hown hlast, frameLen_toNat _⟩, rxuStep_scan_exhausted hs hw hown,
    fun hmore hk h3 => rxuStep_scan_follows hs hw hown hmore hk (State.loadWord_of_admits h3)⟩

/-- Settles O39: the four ends of `R_LEN`. -/
theorem lengthDecidesTheResult : Obligations.LengthDecidesTheResult := by
  intro s hs fl malformed
  have hstep : turnStep .rxu s = .next (rxuLen s) := rxuStep_of_len hs
  rw [hstep]
  exact ⟨fun h => congrArg _ (rxuLen_malformed h), fun h hd => congrArg _ (rxuLen_probe h hd),
    fun h hd hmax => congrArg _ (rxuLen_overflow h hd hmax), fun h hd hmax => congrArg _ (rxuLen_fits h hd hmax)⟩

/-- Settles O40: the end of the copying, the destination that is not admitted, and one descriptor's part. -/
theorem copyMovesFrameBytes : Obligations.CopyMovesFrameBytes := by
  intro s hm hs
  refine ⟨rxuStep_copied hs, rxuStep_copy_unmapped hs, ?_⟩
  intro c buf dst hj h2 h3 hmap hdst hsrc hoff hlink
  obtain ⟨m, hstep, hmoved⟩ := rxuStep_copy hm hs hj hmap (State.loadWord_of_admits h2) (State.loadWord_of_admits h3) hdst hsrc hoff hlink
  exact ⟨_, hstep, rfl, hmoved.bytes, hmoved.outside⟩

/-- Settles O41: the end of the returns, the update of one descriptor's `W0`, and the report. -/
theorem retireReturnsOneDescriptor : Obligations.RetireReturnsOneDescriptor := by
  refine fun s hm => ⟨rxuStep_retired, fun hs hj ha h3 => ?_, rxuStep_done⟩
  obtain ⟨m, hstep, hset⟩ := rxuStep_retire hm hs hj ha (State.loadWord_of_admits h3)
  exact ⟨_, hstep, rfl, hset.word, hset.outside⟩

end Sys2Proof.Machine
end

section
/-! PROOFS. Reassembly (R190 to R194): no other agent's turn changes RXU's registers but a command that finds it idle, and RXU's moves keep
the law of its counts and lengths. -/

namespace Sys2Proof.Machine
open Sys2Proof

/-! The turns of the other agents. -/

/-- A command of HOST's found RXU idle: a `RECEIVE` begins, or RXU is idle again or stuck. -/
structure RxuCommanded (s t : State) : Prop where
  idle : s.rxu.state = .idle
  state : t.rxu.state = .idle ∨ t.rxu.state = .stuck ∨ (t.rxu.state = .scan ∧ t.rxu.k = 0)

/-- What a turn other than RXU's and a reset makes of RXU's registers: nothing, unless HOST commands an idle RXU. -/
def ReceiveLeft (s t : State) : Prop := t.rxu = s.rxu ∨ RxuCommanded s t

/-- An agent that is not enabled changes nothing, so only its enabled step is in question. -/
theorem ReceiveLeft.of_enabledOr {s t : State} {o : Option State} (ho : ∀ u, o = some u → u.rxu = s.rxu)
    (h : enabledOr s o = .next t) : ReceiveLeft s t := by
  obtain h | ⟨-, rfl⟩ := enabledOr_next h
  · exact .inl (ho t h)
  · exact .inl rfl

/-- The count of free values taken does not matter to a `RECEIVE`. -/
theorem ReceiveLeft.of_enabledOr_spend {s t : State} {o : Option State} {n : Nat} (ho : ∀ u, o = some u → u.rxu = s.rxu)
    (h : enabledOr s (o.map fun u => u.spend n) = .next t) : ReceiveLeft s t := by
  refine .of_enabledOr (fun u hu => ?_) h
  obtain ⟨v, hv, rfl⟩ := Option.map_eq_some_iff.mp hu
  exact ho v hv

theorem execInitRxRing_receive {s t : State} (h : execInitRxRing s = .next t) : ReceiveLeft s t := by
  unfold execInitRxRing at h
  split at h
  · cases h; exact .inl rfl
  · rename_i hbusy
    have hidle := State.rxu_idle_of_not_busy (Bool.eq_false_of_not_eq_true hbusy)
    split at h
    · cases h; exact .inl rfl
    · split at h <;> cases h
      · exact .inr ⟨hidle, .inl rfl⟩
      · exact .inr ⟨hidle, .inr (.inl rfl)⟩

theorem execReceive_receive {block : Bool} {s t : State} (h : execReceive block s = .next t) : ReceiveLeft s t := by
  unfold execReceive at h
  split at h
  · cases h; exact .inl rfl
  · rename_i hbusy
    cases h
    exact .inr ⟨State.rxu_idle_of_not_busy (Bool.eq_false_of_not_eq_true hbusy), .inr (.inr ⟨rfl, rfl⟩)⟩

theorem execPollRx_receive {s t : State} (h : execPollRx s = .next t) : ReceiveLeft s t := by
  unfold execPollRx at h
  split at h
  · cases h; exact .inl rfl
  · rename_i hbusy
    have hidle := State.rxu_idle_of_not_busy (Bool.eq_false_of_not_eq_true hbusy)
    split at h <;> cases h
    · exact .inr ⟨hidle, .inl rfl⟩
    · exact .inr ⟨hidle, .inr (.inl rfl)⟩

theorem execInitTxRing_rxu {s t : State} (h : execInitTxRing s = .next t) : t.rxu = s.rxu := by
  unfold execInitTxRing at h
  split at h
  · cases h; rfl
  · split at h
    · cases h; rfl
    · split at h
      · rename_i u hu
        cases h
        exact (congrArg State.rxu (State.initDescs_mem hu).1 :)
      · cases h; rfl

theorem execGetMac_rxu {s t : State} (h : execGetMac s = .next t) : t.rxu = s.rxu := by
  unfold execGetMac at h
  split at h
  · cases h; rfl
  · split at h
    · rename_i u hu
      cases h
      exact (congrArg State.rxu (State.storeBytes_some hu).2.1 :)
    · cases h; rfl

theorem execSetMac_rxu {s t : State} (h : execSetMac s = .next t) : t.rxu = s.rxu := by
  unfold execSetMac at h
  split at h
  · cases h; rfl
  · split at h <;> cases h <;> rfl

/-- An accepting step of another unit. -/
theorem rxu_of_accepting {s t u v : State} {c : Prop} [Decidable c] (h : (if c then .next u else .next v : Result) = .next t)
    (hu : u.rxu = s.rxu) (hv : v.rxu = s.rxu) : t.rxu = s.rxu := by
  split at h <;> cases h <;> assumption

/-- Only RXU's own three commands reach its registers, and only where it is idle (R81, R83). -/
theorem exec_receive {i : Instr} {s t : State} (h : exec i s = .next t) : ReceiveLeft s t := by
  cases i with
  | initRxRing => exact execInitRxRing_receive h
  | receive block => exact execReceive_receive h
  | pollRx => exact execPollRx_receive h
  | initTxRing => exact .inl (execInitTxRing_rxu h)
  | send | readPhy | writePhy => exact .inl (rxu_of_accepting h rfl rfl)
  | getMac => exact .inl (execGetMac_rxu h)
  | setMac => exact .inl (execSetMac_rxu h)
  | miiRead pa ri => rw [execMiiRead_frame h]; exact .inl rfl
  | miiWrite pa ri => rw [execMiiWrite_frame h]; exact .inl rfl

/-- No register but `CMD` reaches RXU. -/
theorem State.writeReg_rxu (s : State) (r : Reg) (v : Word) : (s.writeReg r v).rxu = s.rxu := by
  cases r with
  | txBase => simp only [State.writeReg, State.writeTxBase]; split <;> rfl
  | rxBase => simp only [State.writeReg, State.writeRxBase]; split <;> rfl
  | miiReq | miiData | macHi | macLo => simp only [State.writeReg, State.ifMiuIdle]; split <;> rfl
  | _ => rfl

theorem hostWrite_receive {off width : Nat} {v : Word} {s t : State} (h : hostWrite off width v s = .next t) : ReceiveLeft s t := by
  unfold hostWrite at h
  split at h
  · unfold hostCommand at h
    split at h
    · exact exec_receive h
    · cases h; exact .inl rfl
  · cases h; exact .inl (s.writeReg_rxu _ v)
  · cases h; exact .inl rfl

theorem hostRead_rxu (off width : Nat) (s : State) : (hostRead off width s).rxu = s.rxu := by
  unfold hostRead
  split <;> rfl

/-- A step may begin with changes elsewhere. -/
theorem ReceiveLeft.congr_left {s t u : State} (h : ReceiveLeft t u) (e : t.rxu = s.rxu) : ReceiveLeft s u :=
  h.imp (fun h => h.trans e) fun h => ⟨e ▸ h.idle, h.state⟩

theorem hostStep_receive {s t : State} (h : hostStep s = .next t) : ReceiveLeft s t := by
  unfold hostStep at h
  split at h
  case h_1 => cases h; exact .inl rfl
  case h_2 => exact (hostWrite_receive h).congr_left rfl
  case h_3 => cases h; exact .inl (hostRead_rxu _ _ _)
  case h_4 =>
    refine .of_enabledOr (fun u hu => ?_) h
    obtain ⟨-, hmem, -⟩ := State.storeBytes_some hu
    exact (congrArg State.rxu hmem :)
  case h_5 => split at h <;> cases h <;> exact .inl rfl
  case h_6 => split at h <;> cases h <;> exact .inl rfl

/-- A `RECEIVE` in progress is RXU's own: no other agent's turn changes its registers (R35, R273). -/
theorem turnStep_receive {u : Turn} {s t : State} (hown : u ≠ .rxu) (hreset : u ≠ .reset) (h : turnStep u s = .next t) :
    ReceiveLeft s t := by
  cases u with
  | rxu => exact absurd rfl hown
  | reset => exact absurd rfl hreset
  | host => exact hostStep_receive h
  | txu => rw [(txuStep_move h).frame]; exact .inl rfl
  | miu => rw [miuStep_frame h]; exact .inl rfl
  | miieng => rw [miiengStep_frame h]; exact .inl rfl
  | irq => exact .of_enabledOr (fun _ hu => by rw [irqStep_frame hu]) h
  | copy => exact .of_enabledOr (fun _ hu => by rw [copyStep_frame hu]) h
  | dmaTransmit => exact .of_enabledOr_spend (fun _ hu => by rw [dmaTransmit_frame hu]) h
  | dmaSuspend => exact .of_enabledOr (fun _ hu => by rw [dmaSuspend_frame hu]) h
  | dmaFill => exact .of_enabledOr_spend (fun _ hu => by rw [dmaFill_frame hu]) h
  | dmaArrive => exact .of_enabledOr_spend (fun _ hu => by rw [dmaArrive_frame hu]) h

/-! Counts and lengths (R191 to R194). -/

theorem RxuInv.of_rxu {s t : State} (hpar : t.par = s.par) (hrxu : t.rxu = s.rxu) (h : RxuInv s) : RxuInv t := by
  simpa only [RxuInv, hpar, hrxu] using h

/-- A command that finds RXU idle leaves it at rest, or at the start of a scan of a ring that has a descriptor (R5). -/
theorem RxuCommanded.rxuInv {s t : State} (h : RxuCommanded s t) (hw : t.par.wf = true) : RxuInv t := by
  obtain ⟨-, hring, -⟩ := Params.wf_rings hw
  obtain hs | hs | ⟨hs, hk⟩ := h.state <;> simp only [RxuInv, hs]
  rw [hk]
  exact hring

/-- The next descriptor's part brings what is copied to the next multiple of the capacity, or to the end of the frame (R193). -/
theorem copied_next (j cap n : Nat) : min (j * cap) n + min cap (n - min (j * cap) n) = min ((j + 1) * cap) n := by
  rw [Nat.succ_mul]
  omega

/-- Where all parts are copied, the frame is: it fits the gathered buffers (R192, R193). -/
theorem RxuInv.copied_all {s : State} (h : RxuInv s) (hs : s.rxu.state = .copy) (hj : ¬s.rxu.j < s.rxu.k) :
    s.rxu.copied = s.rxu.n := by
  simp only [RxuInv, hs] at h
  obtain ⟨-, hjk, hfits, hcopied, -⟩ := h
  have hall : s.rxu.j = s.rxu.k := by omega
  rw [hcopied, hall]
  omega

theorem RxuMove.rxuInv {s t : State} (h : RxuMove s t) (hi : RxuInv s) : RxuInv t := by
  cases h with
  | rest => exact hi
  | noData w hs _ _ _ | retired hs _ | done hs => trivial
  | lastFound w hs _ _ _ =>
    simp only [RxuInv, hs] at hi
    exact ⟨Nat.succ_pos _, hi⟩
  | noLast w hs _ _ hk => exact ⟨Nat.le_of_eq hk, Nat.zero_le _⟩
  | gather w next hs _ _ hk _ =>
    simp only [RxuInv, hs] at hi ⊢
    exact Nat.lt_of_le_of_ne hi hk
  | badLength hs _ | discard hs _ _ | overflow hs _ _ _ =>
    simp only [RxuInv, hs] at hi
    obtain ⟨-, hk⟩ := hi
    exact ⟨hk, Nat.zero_le _⟩
  | startCopy hs hfl hd hmax =>
    simp only [RxuInv, hs] at hi
    obtain ⟨-, hk⟩ := hi
    rw [not_or, Nat.not_lt, Nat.not_lt] at hfl
    obtain ⟨htrailer, hfits⟩ := hfl
    refine ⟨hk, Nat.zero_le _, ?_, by simp, hd, Nat.not_lt.1 hmax, rfl, rfl⟩
    show s.rxu.fl.toNat - 4 + 4 ≤ s.rxu.k * s.par.capRx
    omega
  | copyPart m c buf next hs hj _ _ _ _ =>
    simp only [RxuInv, hs] at hi ⊢
    obtain ⟨hk, -, hfits, hcopied, hreport⟩ := hi
    refine ⟨hk, hj, hfits, ?_, hreport⟩
    rw [State.copyLen, hcopied]
    exact copied_next _ _ _
  | copied hs hj =>
    simp only [RxuInv, hs] at hi
    obtain ⟨hk, -⟩ := hi
    exact ⟨hk, Nat.zero_le _⟩
  | retire m next hs hj _ _ =>
    simp only [RxuInv, hs] at hi ⊢
    obtain ⟨hk, -⟩ := hi
    exact ⟨hk, hj⟩

/-- Whoever's turn it is, RXU's registers are again those of a `RECEIVE` in progress. -/
theorem turnStep_rxuInv {u : Turn} {s t : State} (hw : s.par.wf = true) (hi : RxuInv s) (h : turnStep u s = .next t) : RxuInv t := by
  by_cases hown : u = .rxu
  · subst hown
    exact (rxuStep_move h).rxuInv hi
  · by_cases hreset : u = .reset
    · subst hreset
      cases h
      trivial
    · have hpar := turnStep_par h
      exact (turnStep_receive hown hreset h).elim (fun hrxu => hi.of_rxu hpar hrxu) fun hc => hc.rxuInv (hpar ▸ hw)

/-- Of RXU's moves only the end of the copying goes from `R_COPY` to `R_RETIRE`. -/
theorem RxuMove.copied_all {s t : State} (h : RxuMove s t) (hi : RxuInv s) (hs : s.rxu.state = .copy) (ht : t.rxu.state = .retire) :
    s.rxu.copied = s.rxu.n := by
  cases h with
  | copied _ hj => exact hi.copied_all hs hj
  | rest | copyPart => cases hs.symm.trans ht
  | noData _ hs' | lastFound _ hs' | noLast _ hs' | gather _ _ hs' | badLength hs' | discard hs' | overflow hs' | startCopy hs'
  | retire _ _ hs' | retired hs' | done hs' => cases hs.symm.trans hs'

theorem turnStep_copied_all {u : Turn} {s t : State} (hi : RxuInv s) (h : turnStep u s = .next t) (hs : s.rxu.state = .copy)
    (ht : t.rxu.state = .retire) : s.rxu.copied = s.rxu.n := by
  by_cases hown : u = .rxu
  · subst hown
    exact (rxuStep_move h).copied_all hi hs ht
  · by_cases hreset : u = .reset
    · subst hreset
      cases h
      cases ht
    · obtain hrxu | hc := turnStep_receive hown hreset h
      · rw [hrxu, hs] at ht
        cases ht
      · rw [hc.idle] at hs
        cases hs

/-- The law of reassembly over one turn. -/
theorem turnStep_reassembly {u : Turn} {s t : State} (hw : s.par.wf = true) (hi : RxuInv s) (h : turnStep u s = .next t) :
    RxuInv t ∧ (s.rxu.state = .copy → t.rxu.state = .retire → s.rxu.copied = s.rxu.n) :=
  ⟨turnStep_rxuInv hw hi h, turnStep_copied_all hi h⟩

/-- Settles O53: RXU's moves keep the law and end the copying with the frame copied, and no other agent's turn reaches a `RECEIVE`. -/
theorem everyStepKeepsReassembly : Obligations.EveryStepKeepsReassembly := by
  intro s t hw hi h
  rw [step, s.takeTurn_frame] at h
  exact turnStep_reassembly (s := { s with sched := s.takeTurn.sched, draws := s.takeTurn.draws }) hw hi h

end Sys2Proof.Machine
end

section
/-! PROOFS. A `RECEIVE` of a frame in one descriptor from the command to the report (R190 to R195, R202): what the turns of the scan, of the
copy and of the return make of the state. -/

namespace Sys2Proof.Machine
open Sys2Proof

theorem run_rxu {s t : State} {q : List HostOp} {ts : List Turn} (h : rxuStep (s.queued q ts) = .next (t.queued q ts)) (k : Nat) :
    Host.Core.run core (k + 1) (s.queued q (.rxu :: ts)) = Host.Core.run core k (t.queued q ts) := run_turn (u := .rxu) h k

/-- What a `RECEIVE` of a frame of `n` bytes in one descriptor starts from: an idle RXU, a software-owned last descriptor at the cursor with
its buffer and link, and a destination that is large enough and keeps off both. -/
structure OneDescriptor (s : State) (buf next : Word) (n : Nat) : Prop where
  params : s.par.wf = true
  memory : s.mem.wf = true
  idle : s.busy .rxu = false
  descEnd : s.rxCur.toNat + 16 ≤ 4294967296
  admits0 : s.admitsWord s.rxCur = true
  buffer : s.loadW2 s.rxCur = some buf
  link : s.loadW3 s.rxCur = some next
  software : own (s.mem.wordAt s.rxCur.toNat) = false
  last : segLast (s.mem.wordAt s.rxCur.toNat) = true
  length : (frameLen (s.mem.wordAt s.rxCur.toNat)).toNat = n + 4
  fitsBuffer : n + 4 ≤ s.par.capRx
  destination : s.arg0 ≠ 0#32
  fitsLimit : n ≤ s.arg1.toNat
  destMapped : s.par.mappedRange s.arg0.toNat s.arg1.toNat = true
  bufferMapped : s.par.mappedRange buf.toNat n = true
  destOffBuffer : s.arg0.toNat + n ≤ buf.toNat ∨ buf.toNat + n ≤ s.arg0.toNat
  destOffDesc : s.arg0.toNat + n ≤ s.rxCur.toNat ∨ s.rxCur.toNat + 16 ≤ s.arg0.toNat

/-! The command, the scan and the length (R190 to R192). -/

/-- The `RECEIVE` has been accepted. -/
def State.scanning (s : State) (block : Bool) : State :=
  { s with cmdFault := .noFault,
           rxu := { s.rxu with dst := s.arg0, max := s.arg1, blk := block, p := s.rxCur, k := 0, state := .scan } }

/-- The descriptor at the cursor has been gathered, the frame's last. -/
def State.gathered (s : State) (block : Bool) : State :=
  { s.scanning block with
    rxu := { (s.scanning block).rxu with k := 1, fl := frameLen (s.mem.wordAt s.rxCur.toNat), state := .len } }

/-- The frame has been found to have `n` bytes, and the copying starts at the cursor. -/
def State.measured (s : State) (block : Bool) (n : Nat) : State :=
  { s.gathered block with
    rxu := { (s.gathered block).rxu with n := n, res := BitVec.ofNat 32 n, code := .ok, q := s.rxCur, j := 0, copied := 0,
                                         state := .copy } }

theorem hostStep_receive_accepted {s : State} (block : Bool) (h : s.busy .rxu = false) (q : List HostOp) (ts : List Turn) :
    hostStep (s.queued (.regWrite 0x00 4 (encode (.receive block)) :: q) ts) = .next ((s.scanning block).queued q ts) :=
  (hostStep_command rfl s q ts).trans (execReceive_accepted (s := s.queued q ts) block h)

section
variable {s : State} {buf next : Word} {n : Nat} (h : OneDescriptor s buf next n)
include h

theorem OneDescriptor.scan (block : Bool) (q : List HostOp) (ts : List Turn) :
    rxuStep ((s.scanning block).queued q ts) = .next ((s.gathered block).queued q ts) :=
  rxuStep_scan_last (s := (s.scanning block).queued q ts) rfl (State.loadWord_of_admits h.admits0) h.software h.last

theorem OneDescriptor.measure (block : Bool) (q : List HostOp) (ts : List Turn) :
    rxuStep ((s.gathered block).queued q ts) = .next ((s.measured block n).queued q ts) := by
  have hfl : ((s.gathered block).queued q ts).rxu.fl.toNat = n + 4 := h.length
  have hgood : ¬((s.gathered block).queued q ts).rxu.badLength ((s.gathered block).queued q ts).par := by
    have hfits := h.fitsBuffer
    show ¬(_ < 4 ∨ 1 * s.par.capRx < _)
    omega
  have hn : ((s.gathered block).queued q ts).rxu.fl.toNat - 4 = n := by omega
  rw [rxuStep_of_len rfl, rxuLen_fits hgood h.destination (hn ▸ h.fitsLimit), hn]
  rfl

/-- The three turns up to `R_COPY` gather the descriptor and take its length. -/
theorem OneDescriptor.run_measure (block : Bool) (q : List HostOp) (ts : List Turn) (k : Nat) :
    Host.Core.run core (k + 3) (s.queued (.regWrite 0x00 4 (encode (.receive block)) :: q) (.host :: .rxu :: .rxu :: ts))
      = Host.Core.run core k ((s.measured block n).queued q ts) :=
  (run_host (hostStep_receive_accepted block h.idle q _) _).trans
    ((run_rxu (h.scan block q _) _).trans (run_rxu (h.measure block q ts) k))

end

/-! The copy (R193). -/

/-- The part of the descriptor at `R.q` has been copied, the memory being `m`. -/
def State.partCopied (s : State) (m : Memory) (next : Word) : State :=
  { s with mem := m, rxu := { s.rxu with copied := s.rxu.copied + s.copyLen, q := next, j := s.rxu.j + 1 } }

/-- The gathered descriptors are to be returned. -/
def State.returning (s : State) : State := { s with rxu := { s.rxu with j := 0, state := .retire } }

/-- The two turns of the copy move the frame's bytes. -/
theorem OneDescriptor.run_copy {s : State} {buf next : Word} {n : Nat} (h : OneDescriptor s buf next n) (block : Bool)
    (q : List HostOp) (ts : List Turn) (k : Nat) :
    ∃ m, Host.Core.run core (k + 2) ((s.measured block n).queued q (.rxu :: .rxu :: ts))
        = Host.Core.run core k (((s.measured block n).partCopied m next).returning.queued q ts)
      ∧ BytesMoved s.mem m s.arg0.toNat buf.toNat n := by
  obtain ⟨-, -, -, h3⟩ := wordAddrs h.descEnd
  have hoffBuf := h.destOffBuffer
  have hoffDesc := h.destOffDesc
  have hlen : (s.measured block n).copyLen = n := Nat.min_eq_right (Nat.le_of_add_right_le h.fitsBuffer)
  have hdst : (s.arg0 + 0#32).toNat = s.arg0.toNat := congrArg _ (BitVec.add_zero _)
  obtain ⟨m, hcopy, hmoved⟩ := rxuStep_copy (s := (s.measured block n).queued q (.rxu :: ts)) h.memory rfl Nat.one_pos h.destMapped
    h.buffer h.link (hlen.symm ▸ hdst.symm ▸ Params.mappedRange_part h.destMapped (Nat.le_refl _) (Nat.add_le_add_left h.fitsLimit _))
    (hlen.symm ▸ h.bufferMapped) (hlen.symm ▸ hdst.symm ▸ .inr hoffBuf) (hlen.symm ▸ hdst.symm ▸ .inr (h3 ▸ by omega))
  have hpart : rxuStep ((s.measured block n).queued q (.rxu :: ts))
      = .next (((s.measured block n).partCopied m next).queued q (.rxu :: ts)) := hcopy
  have hall : rxuStep (((s.measured block n).partCopied m next).queued q ts)
      = .next (((s.measured block n).partCopied m next).returning.queued q ts) := rxuStep_copied rfl (Nat.le_refl 1)
  exact ⟨m, (run_rxu hpart _).trans (run_rxu hall k), hlen ▸ hdst ▸ hmoved⟩

/-! The return and the report (R194, R195). -/

/-- The descriptor at the cursor has been returned, RXU in the state `st`, the memory being `m`. -/
def State.returned (s : State) (m : Memory) (next : Word) (st : RxuState) : State :=
  { s with mem := m, rxCur := next, rxu := { s.rxu with j := s.rxu.j + 1, state := st } }

/-- The result has been reported. -/
def State.receiveReported (s : State) : State :=
  { s with rxResult := s.rxu.res, rxCode := s.rxu.code, rxu := { s.rxu with state := .idle } }

/-- The three turns from the last return to the report. -/
theorem run_return {s : State} {next : Word} (hm : s.mem.wf = true) (hs : s.rxu.state = .retire) (hk : s.rxu.k = s.rxu.j + 1)
    (ha : s.admitsWord s.rxCur = true) (hn : s.loadW3 s.rxCur = some next) (q : List HostOp) (ts : List Turn) (k : Nat) :
    ∃ m, Host.Core.run core (k + 3) (s.queued q (.rxu :: .rxu :: .rxu :: ts))
        = Host.Core.run core k ((s.returned m next .done).receiveReported.queued q ts)
      ∧ WordSet s.mem m s.rxCur (setOwn (s.mem.wordAt s.rxCur.toNat)) := by
  have hleft : s.rxu.j < s.rxu.k := by omega
  obtain ⟨m, hretire, hset⟩ := rxuStep_retire (s := s.queued q (.rxu :: .rxu :: ts)) hm hs hleft ha hn
  have hreturned : rxuStep (s.queued q (.rxu :: .rxu :: ts))
      = .next ((s.returned m next .retire).queued q (.rxu :: .rxu :: ts)) := by
    rw [hretire, State.returned, ← hs]
    rfl
  have hall : rxuStep ((s.returned m next .retire).queued q (.rxu :: ts))
      = .next ((s.returned m next .done).queued q (.rxu :: ts)) := rxuStep_retired rfl (Nat.le_of_eq hk)
  have hdone : rxuStep ((s.returned m next .done).queued q ts)
      = .next ((s.returned m next .done).receiveReported.queued q ts) := rxuStep_done rfl
  exact ⟨m, (run_rxu hreturned _).trans ((run_rxu hall _).trans (run_rxu hdone k)), hset⟩

/-! The whole command. -/

/-- The memory after the frame was copied (`m`) and the descriptor returned (`m'`). -/
theorem OneDescriptor.memory_after {s : State} {buf next : Word} {n : Nat} {m m' : Memory} (h : OneDescriptor s buf next n)
    (hcopy : BytesMoved s.mem m s.arg0.toNat buf.toNat n) (hreturn : WordSet m m' s.rxCur (setOwn (m.wordAt s.rxCur.toNat))) :
    m'.wordAt s.rxCur.toNat = setOwn (s.mem.wordAt s.rxCur.toNat)
      ∧ (∀ i, i < n → m'.read (s.arg0.toNat + i) = s.mem.read (buf.toNat + i))
      ∧ ∀ x, (x < s.arg0.toNat ∨ s.arg0.toNat + n ≤ x) → (x < s.rxCur.toNat ∨ s.rxCur.toNat + 4 ≤ x) →
          m'.read x = s.mem.read x := by
  have hoff := h.destOffDesc
  refine ⟨?_, fun i hi => ?_, fun x hx hx' => ?_⟩
  · rw [hreturn.word, hcopy.outside.wordAt (by omega)]
  · rw [hreturn.outside _ (by omega), hcopy.bytes i hi]
  · rw [hreturn.outside x hx', hcopy.outside x hx]

theorem encode_receive (block : Bool) : encode (.receive block) = if block then 0x00000104#32 else 0x00000004#32 := by
  cases block <;> rfl

/-- Settles O59: the three turns up to the copy, the two of the copy, the three up to the report, and the memory they leave. -/
theorem oneDescriptorReceiveCompletes : Obligations.OneDescriptorReceiveCompletes := by
  intro s q ts buf next n block hw hm hidle hend h0 hbuf hnext hsw hlast hlen hcap hdest hmax hdestMap hbufMap hoffBuf hoffDesc
  have h : OneDescriptor s buf next n := ⟨hw, hm, hidle, hend, h0, hbuf, hnext, hsw, hlast, (frameLen_toNat _).trans hlen, hcap, hdest,
    hmax, hdestMap, hbufMap, hoffBuf, hoffDesc⟩
  obtain ⟨-, -, -, hlink⟩ := wordAddrs hend
  obtain ⟨-, -, -, -, -, hcapMax, -⟩ := Params.wf_rings hw
  have hmeasure := h.run_measure block q (.rxu :: .rxu :: .rxu :: .rxu :: .rxu :: ts) 5
  obtain ⟨m1, hcopy, hmoved⟩ := h.run_copy block q (.rxu :: .rxu :: .rxu :: ts) 3
  have hkept : ((s.measured block n).partCopied m1 next).returning.loadW3 s.rxCur = s.loadW3 s.rxCur :=
    State.loadWord_kept rfl (hmoved.outside.wordAt (by omega))
  obtain ⟨m2, hreturn, hset⟩ := run_return (s := ((s.measured block n).partCopied m1 next).returning) hmoved.wf rfl rfl h0
    (hkept.trans hnext) q ts 0
  rw [encode_receive] at hmeasure
  refine ⟨_, hmeasure.trans (hcopy.trans hreturn), ?_, rfl, rfl, rfl, rfl, rfl, h.memory_after hmoved hset⟩
  show (BitVec.ofNat 32 n).toNat = n
  rw [BitVec.toNat_ofNat, Nat.mod_eq_of_lt (by omega)]

end Sys2Proof.Machine
end

section
/-! PROOFS. The turns of the acquire, of the copy engine and of the handler (R221, R222, R225, R226, R229). -/

namespace Sys2Proof.Machine
open Sys2Proof

theorem txuStep_acquire_waits {s : State} (hs : s.txu.state = .acquire) (hl : s.locked = true) : txuStep s = .next s := by
  simp only [txuStep, hs, txuAcquire, hl]
  rfl

/-- Settles O31: the slot is empty or it is full. -/
theorem acquireConsumesOneCompletion : Obligations.AcquireConsumesOneCompletion := fun _ hs =>
  ⟨txuStep_acquire_waits hs, txuStep_acquire hs⟩

theorem copyStep_disabled {s : State}
    (h : s.copy.busy = false ∨ s.par.mappedRange s.copy.payload.toNat s.copy.payloadLen.toNat = false) : copyStep s = none := by
  obtain h | h := h <;> simp [copyStep, h]

/-- Settles O42: the step is disabled, or it is the move of the bytes. -/
theorem copyStepMovesTheFragment : Obligations.CopyStepMovesTheFragment := by
  intro s hm
  refine ⟨fun hfree => congrArg (enabledOr s) (copyStep_disabled (.inl hfree)),
    fun hpay => congrArg (enabledOr s) (copyStep_disabled (.inr hpay)), fun hbusy hpay hdst hsrc hoff => ?_⟩
  obtain ⟨m, hstep, -, hbytes, hout⟩ := copyStep_moves hm hbusy hpay hdst hsrc (rangesOverlap_of_apart (.inr hoff))
  exact ⟨s.copied m, congrArg (enabledOr s) hstep, rfl, hbytes, hout⟩

/-- IRQ's step where a completion is already waiting in the slot (R229). -/
theorem irqStep_overruns {s : State} (hirq : s.irqEn = true) (htc : s.tcFlag = true) (hfull : s.locked = false) :
    irqStep s = some { s.setTc false with syncFault := true } := by
  rw [irqStep, if_pos (by rw [hirq, htc]; rfl), State.release]
  exact congrArg some (if_neg (Bool.eq_false_iff.1 hfull))

/-- Settles O43: the slot is empty and takes the completion, or it is full. -/
theorem handlerClearsTheFlagAndReleases : Obligations.HandlerClearsTheFlagAndReleases := fun s hirq htc =>
  ⟨fun hempty => congrArg (enabledOr s) (irqStep_releases hirq htc hempty),
    fun hfull => congrArg (enabledOr s) (irqStep_overruns hirq htc hfull)⟩

end Sys2Proof.Machine
end

section
/-! PROOFS. One transfer in flight (R224, R229, R230): no turn stops the machine, and a transfer goes through its phases one after another,
none begun before the last is over. -/

namespace Sys2Proof.Machine
open Sys2Proof

/-! No turn stops the machine but TXU's at a start that has no meaning (R224, U10). -/

theorem exec_goesOn (i : Instr) (s : State) : ∃ t, exec i s = .next t := by
  cases hu : unitOf i with
  | none => cases i <;> cases hu <;> exact ⟨_, rfl⟩
  | some u =>
    by_cases hbusy : s.busy u = true
    · exact ⟨_, exec_busy hu hbusy⟩
    · have hfree := Bool.eq_false_of_not_eq_true hbusy
      by_cases hdenied : (i = .initRxRing ∨ i = .initTxRing) ∧ s.macEn = true
      · exact ⟨_, exec_not_allowed hu hfree hdenied.1 hdenied.2⟩
      · obtain ⟨t, h, -⟩ := exec_accepts hu hfree hdenied
        exact ⟨t, h⟩

theorem hostWrite_goesOn (off width : Nat) (v : Word) (s : State) : ∃ t, hostWrite off width v s = .next t := by
  unfold hostWrite
  split
  · unfold hostCommand
    split
    · exact exec_goesOn _ s
    · exact ⟨_, rfl⟩
  · exact ⟨_, rfl⟩
  · exact ⟨_, rfl⟩

theorem hostStep_goesOn (s : State) : ∃ t, hostStep s = .next t := by
  unfold hostStep
  split
  case h_2 => exact hostWrite_goesOn _ _ _ _
  case h_5 | h_6 => split <;> exact ⟨_, rfl⟩
  all_goals exact ⟨_, rfl⟩

theorem rxuStep_goesOn (s : State) : ∃ t, rxuStep s = .next t := by
  unfold rxuStep
  split <;> exact ⟨_, rfl⟩

theorem miuStep_goesOn (s : State) : ∃ t, miuStep s = .next t := by
  unfold miuStep
  split <;> exact ⟨_, rfl⟩

theorem miiengStep_goesOn (s : State) : ∃ t, miiengStep s = .next t := by
  unfold miiengStep
  split
  · exact exec_goesOn _ s
  · exact ⟨_, rfl⟩

theorem txuStep_goesOn {s : State} (h : s.txu.state = .copyStart → s.copy.busy = false ∧ s.fragLen ≠ 0) :
    ∃ t, txuStep s = .next t := by
  by_cases hs : s.txu.state = .copyStart
  · obtain ⟨hfree, hfrag⟩ := h hs
    cases hb : s.loadW2 s.txCur with
    | none => exact ⟨s, by simp only [txuStep, hs, txuCopyStart, hb]⟩
    | some buf => exact ⟨_, txuStep_copyStart hs hb hfree hfrag⟩
  · unfold txuStep
    split
    case h_5 hs' => exact absurd hs' hs
    all_goals exact ⟨_, rfl⟩

theorem turnStep_goesOn {s : State} (h : s.txu.state = .copyStart → s.copy.busy = false ∧ s.fragLen ≠ 0) (u : Turn) :
    ∃ t, turnStep u s = .next t := by
  cases u with
  | txu => exact txuStep_goesOn h
  | host => exact hostStep_goesOn s
  | rxu => exact rxuStep_goesOn s
  | miu => exact miuStep_goesOn s
  | miieng => exact miiengStep_goesOn s
  | _ => exact ⟨_, rfl⟩

/-! What HOST's turn leaves of a transfer. -/

/-- The registers a transfer goes through: the engine's, the sticky fault and the synchronizer. -/
def State.transferView (s : State) : Copy × Bool × Bool := (s.copy, s.syncFault, s.locked)

/-- What a turn of HOST makes of a transfer's registers: nothing, but that `INIT_TX_RING`, TXU idle, locks the synchronizer (R223). -/
def TransferLeft (s t : State) : Prop :=
  t.transferView = s.transferView ∨ s.txu.state = .idle ∧ t.transferView = (s.copy, s.syncFault, true)

theorem transferView_of_withMem {s t : State} (h : t = s.withMem t.mem) : t.transferView = s.transferView := by
  rw [h]
  rfl

/-- A command is refused, or does the rest of its arm. -/
theorem transferView_of_accepting {s t u : State} {c : Prop} [Decidable c] {r : Result}
    (h : (if c then .next u else r) = .next t) (hu : u.transferView = s.transferView)
    (hr : r = .next t → t.transferView = s.transferView) : t.transferView = s.transferView := by
  split at h
  · cases h; exact hu
  · exact hr h

theorem execInitTxRing_transfer {s t : State} (h : execInitTxRing s = .next t) : TransferLeft s t := by
  unfold execInitTxRing at h
  split at h
  · cases h; exact .inl rfl
  · rename_i hbusy
    have hidle := State.txu_idle_of_not_busy (Bool.eq_false_of_not_eq_true hbusy)
    split at h
    · cases h; exact .inl rfl
    · split at h <;> cases h
      · rename_i u hu
        have hview := transferView_of_withMem (s := s.accept) (State.initDescs_mem hu).1
        exact .inr ⟨hidle, congrArg (fun v => (v.1, v.2.1, true)) hview⟩
      · exact .inl rfl

theorem execInitRxRing_transferView {s t : State} (h : execInitRxRing s = .next t) : t.transferView = s.transferView := by
  refine transferView_of_accepting h rfl fun h => transferView_of_accepting h rfl fun h => ?_
  split at h
  · rename_i u hu
    cases h
    exact transferView_of_withMem (s := s.accept) (t := u) (State.initDescs_mem hu).1
  · cases h; rfl

theorem execPollRx_transferView {s t : State} (h : execPollRx s = .next t) : t.transferView = s.transferView := by
  refine transferView_of_accepting h rfl fun h => ?_
  split at h <;> cases h <;> rfl

theorem execGetMac_transferView {s t : State} (h : execGetMac s = .next t) : t.transferView = s.transferView := by
  refine transferView_of_accepting h rfl fun h => ?_
  split at h
  · rename_i u hu
    cases h
    obtain ⟨-, hmem, -⟩ := State.storeBytes_some hu
    exact transferView_of_withMem (s := s.accept) (t := u) hmem
  · cases h; rfl

theorem execSetMac_transferView {s t : State} (h : execSetMac s = .next t) : t.transferView = s.transferView := by
  refine transferView_of_accepting h rfl fun h => ?_
  split at h <;> cases h <;> rfl

/-- Only `INIT_TX_RING` reaches a transfer's registers. -/
theorem exec_transfer {i : Instr} {s t : State} (h : exec i s = .next t) : TransferLeft s t := by
  cases i with
  | initTxRing => exact execInitTxRing_transfer h
  | initRxRing => exact .inl (execInitRxRing_transferView h)
  | send | receive _ | readPhy | writePhy => exact .inl (transferView_of_accepting h rfl fun h => by cases h; rfl)
  | pollRx => exact .inl (execPollRx_transferView h)
  | getMac => exact .inl (execGetMac_transferView h)
  | setMac => exact .inl (execSetMac_transferView h)
  | miiRead pa ri => rw [execMiiRead_frame h]; exact .inl rfl
  | miiWrite pa ri => rw [execMiiWrite_frame h]; exact .inl rfl

/-- No register but `CMD` reaches a transfer's registers. -/
theorem State.writeReg_transferView (s : State) (r : Reg) (v : Word) : (s.writeReg r v).transferView = s.transferView := by
  cases r with
  | txBase => simp only [State.writeReg, State.writeTxBase]; split <;> rfl
  | rxBase => simp only [State.writeReg, State.writeRxBase]; split <;> rfl
  | miiReq | miiData | macHi | macLo => simp only [State.writeReg, State.ifMiuIdle]; split <;> rfl
  | _ => rfl

theorem hostWrite_transfer {off width : Nat} {v : Word} {s t : State} (h : hostWrite off width v s = .next t) :
    TransferLeft s t := by
  unfold hostWrite at h
  split at h
  · unfold hostCommand at h
    split at h
    · exact exec_transfer h
    · cases h; exact .inl rfl
  · cases h; exact .inl (s.writeReg_transferView _ v)
  · cases h; exact .inl rfl

theorem hostRead_transferView (off width : Nat) (s : State) : (hostRead off width s).transferView = s.transferView := by
  unfold hostRead
  split <;> rfl

theorem hostStep_transfer {s t : State} (h : hostStep s = .next t) : TransferLeft s t := by
  unfold hostStep at h
  split at h
  case h_1 => cases h; exact .inl rfl
  case h_2 q _ => exact hostWrite_transfer (s := { s with hostQ := q }) h
  case h_3 q _ => cases h; exact .inl (hostRead_transferView _ _ { s with hostQ := q })
  case h_4 q _ =>
    obtain h | ⟨-, rfl⟩ := enabledOr_next h
    · obtain ⟨-, hmem, -⟩ := State.storeBytes_some h
      exact .inl (transferView_of_withMem (s := { s with hostQ := q }) hmem)
    · exact .inl rfl
  case h_5 | h_6 => split at h <;> cases h <;> exact .inl rfl

/-! The phases of a transfer. -/

/-- Where the transfer is that TXU waits for in `T_ACQUIRE` (R230). -/
inductive TransferPhase (s : State) : Prop
  /-- TXU waits for none. -/
  | rest (hs : s.txu.state ≠ .acquire) (hbusy : s.copy.busy = false) (hflag : s.tcFlag = false) (hlocked : s.locked = true)
  /-- The engine has it (R224). -/
  | copying (hs : s.txu.state = .acquire) (hbusy : s.copy.busy = true) (hflag : s.tcFlag = false) (hlocked : s.locked = true)
  /-- It is performed, the flag pending (R225). -/
  | pending (hs : s.txu.state = .acquire) (hbusy : s.copy.busy = false) (hflag : s.tcFlag = true) (hlocked : s.locked = true)
  /-- Its completion is in the slot (R222). -/
  | released (hs : s.txu.state = .acquire) (hbusy : s.copy.busy = false) (hflag : s.tcFlag = false) (hlocked : s.locked = false)

/-- The discipline says that a transfer is in one of the four phases, and that no fault is set. -/
theorem syncInv_iff_phase {s : State} :
    SyncInv s ↔ s.par.copyCh < s.copy.tc.length ∧ s.syncFault = false ∧ TransferPhase s := by
  refine and_congr_right fun _ => and_congr_right fun _ => ?_
  split
  · rename_i hs
    constructor
    · rintro (⟨hb, hf, hl⟩ | ⟨hb, hf, hl⟩ | ⟨hb, hf, hl⟩)
      · exact .copying hs hb hf hl
      · exact .pending hs hb hf hl
      · exact .released hs hb hf hl
    · rintro (⟨hno, _⟩ | ⟨-, hb, hf, hl⟩ | ⟨-, hb, hf, hl⟩ | ⟨-, hb, hf, hl⟩)
      · exact absurd hs hno
      · exact .inl ⟨hb, hf, hl⟩
      · exact .inr (.inl ⟨hb, hf, hl⟩)
      · exact .inr (.inr ⟨hb, hf, hl⟩)
  · rename_i hs
    constructor
    · rintro ⟨hb, hf, hl⟩
      exact .rest hs hb hf hl
    · rintro (⟨-, hb, hf, hl⟩ | ⟨hs', _⟩ | ⟨hs', _⟩ | ⟨hs', _⟩)
      · exact ⟨hb, hf, hl⟩
      all_goals exact absurd hs' hs

/-- The flag of the engine's channel after it is written. -/
theorem getD_set_self {l : List Bool} {c : Nat} (h : c < l.length) (b : Bool) : (l.set c b).getD c false = b := by
  rw [List.getD_eq_getElem _ _ (by rwa [List.length_set]), List.getElem_set_self]

/-- Away from `T_ACQUIRE` no transfer is in flight. -/
theorem SyncInv.quiet {s : State} (h : SyncInv s) (hs : s.txu.state ≠ .acquire) :
    s.copy.busy = false ∧ s.tcFlag = false ∧ s.locked = true := by
  obtain ⟨-, -, h⟩ := h
  rwa [if_neg hs] at h

/-- The discipline rests on no other register. -/
theorem SyncInv.of_same {s t : State} (h : SyncInv s) (hpar : t.par = s.par) (hview : t.transferView = s.transferView)
    (hst : t.txu.state = .acquire ↔ s.txu.state = .acquire) : SyncInv t := by
  simp only [State.transferView, Prod.mk.injEq] at hview
  obtain ⟨hcopy, hfault, hlocked⟩ := hview
  simpa only [SyncInv, State.tcFlag, hpar, hcopy, hfault, hlocked, hst] using h

/-! From phase to phase. -/

/-- TXU begins a transfer where there is none, and ends one that is released; its other moves leave the transfer. -/
theorem TxuMove.syncInv {s t : State} (h : TxuMove s t) (hi : SyncInv s) : SyncInv t := by
  obtain ⟨hch, hfault, hphase⟩ := syncInv_iff_phase.1 hi
  cases h with
  | rest => exact hi
  | copyStart buf hs hb hfree hfrag =>
    obtain ⟨-, hflag, hlocked⟩ := hi.quiet (by rw [hs]; nofun)
    exact syncInv_iff_phase.2 ⟨hch, hfault, .copying rfl rfl hflag hlocked⟩
  | acquire hs hl =>
    cases hphase with
    | released _ hbusy hflag _ => exact syncInv_iff_phase.2 ⟨hch, hfault, .rest nofun hbusy hflag rfl⟩
    | rest _ _ _ hlocked | copying _ _ _ hlocked | pending _ _ _ hlocked => cases hl.symm.trans hlocked
  | record m next hs hm hn =>
    refine hi.of_same rfl rfl (iff_of_false (fun h => ?_) (by rw [hs]; nofun))
    dsimp only at h
    split at h <;> cases h
  | tooLong hs _ | empty hs _ | begin hs _ | found _ hs _ _ | clear _ hs _ | flagFirst _ hs _ | flagLast _ _ hs _ _ | granted hs _
  | poll hs | done hs => exact hi.of_same rfl rfl (iff_of_false nofun (by rw [hs]; nofun))
  | grant m next hs _ _ _ => exact hi.of_same rfl rfl Iff.rfl

theorem copyStep_some {s t : State} (h : copyStep s = some t) : s.copy.busy = true ∧ ∃ m k, t = (s.copied m).spend k := by
  simp only [copyStep, Option.ite_none_right_eq_some, Option.bind_eq_some_iff, Option.some.injEq, Bool.and_eq_true] at h
  obtain ⟨⟨hbusy, -⟩, u, hu, rfl⟩ := h
  obtain ⟨m, k, rfl⟩ := State.memCopy_withMem hu
  exact ⟨hbusy, m, k, rfl⟩

/-- COPY performs the transfer it has. -/
theorem copyStep_syncInv {s t : State} (h : copyStep s = some t) (hi : SyncInv s) : SyncInv t := by
  obtain ⟨hb, m, k, rfl⟩ := copyStep_some h
  obtain ⟨hch, hfault, hphase⟩ := syncInv_iff_phase.1 hi
  cases hphase with
  | copying hs _ _ hlocked =>
    exact syncInv_iff_phase.2 ⟨by rwa [← List.length_set] at hch, hfault, .pending hs rfl (getD_set_self hch true) hlocked⟩
  | rest _ hbusy _ _ | pending _ hbusy _ _ | released _ hbusy _ _ => cases hb.symm.trans hbusy

theorem irqStep_enabled {s t : State} (h : irqStep s = some t) : s.irqEn = true ∧ s.tcFlag = true := by
  simp only [irqStep, Option.ite_none_right_eq_some, Bool.and_eq_true] at h
  exact h.1

/-- The handler releases into an empty slot, for a flag is pending only then. -/
theorem irqStep_syncInv {s t : State} (h : irqStep s = some t) (hi : SyncInv s) : SyncInv t := by
  obtain ⟨hirq, hf⟩ := irqStep_enabled h
  obtain ⟨hch, hfault, hphase⟩ := syncInv_iff_phase.1 hi
  cases hphase with
  | pending hs hbusy _ hlocked =>
    cases (irqStep_releases hirq hf hlocked).symm.trans h
    exact syncInv_iff_phase.2 ⟨by rwa [← List.length_set] at hch, hfault, .released hs hbusy (getD_set_self hch false) rfl⟩
  | rest _ _ hflag _ | copying _ _ hflag _ | released _ _ hflag _ => cases hf.symm.trans hflag

/-- HOST leaves a transfer as it is: `INIT_TX_RING` locks the synchronizer only where it is locked. -/
theorem hostStep_syncInv {s t : State} (h : hostStep s = .next t) (hi : SyncInv s) : SyncInv t := by
  have hview : t.transferView = s.transferView := by
    obtain hview | ⟨hidle, hview⟩ := hostStep_transfer h
    · exact hview
    · obtain ⟨-, -, hlocked⟩ := hi.quiet (by rw [hidle]; nofun)
      rw [hview, State.transferView, hlocked]
  obtain hsend | hc := hostStep_left h
  · simp only [State.sendView, Prod.mk.injEq] at hsend
    obtain ⟨hpar, htxu, -⟩ := hsend
    exact hi.of_same hpar hview (by rw [htxu])
  · refine hi.of_same hc.par hview (iff_of_false ?_ (by rw [hc.idle]; nofun))
    obtain hs | hs | hs := hc.state <;> rw [hs] <;> nofun

/-- An agent that is not enabled changes nothing, so only its enabled step is in question. -/
theorem SyncInv.of_enabledOr {s t : State} {o : Option State} (hi : SyncInv s) (ho : ∀ u, o = some u → SyncInv u)
    (h : enabledOr s o = .next t) : SyncInv t := by
  obtain h | ⟨-, rfl⟩ := enabledOr_next h
  · exact ho t h
  · exact hi

/-- The count of free values taken does not matter to a transfer. -/
theorem SyncInv.of_enabledOr_spend {s t : State} {o : Option State} {n : Nat} (hi : SyncInv s)
    (ho : ∀ u, o = some u → SyncInv u) (h : enabledOr s (o.map fun u => u.spend n) = .next t) : SyncInv t := by
  refine hi.of_enabledOr (fun u hu => ?_) h
  obtain ⟨v, hv, rfl⟩ := Option.map_eq_some_iff.mp hu
  exact ho v hv

/-- A reset ends every transfer. -/
theorem hardReset_syncInv {s : State} (hw : s.par.wf = true) : SyncInv s.hardReset := by
  obtain ⟨-, -, -, -, -, -, -, -, -, -, -, -, -, hch, -⟩ := Params.wf_rings hw
  refine syncInv_iff_phase.2 ⟨hch.trans_eq List.length_replicate.symm, rfl, .rest nofun rfl ?_ rfl⟩
  show (List.replicate s.par.nCh false).getD s.par.copyCh false = false
  rw [List.getD_eq_getElem?_getD, List.getElem?_getD_replicate_default_eq]

/-- Whoever's turn it is, what it makes of the state meets the discipline. -/
theorem turnStep_syncInv {u : Turn} {s t : State} (hw : s.par.wf = true) (hi : SyncInv s) (h : turnStep u s = .next t) :
    SyncInv t := by
  cases u with
  | txu => exact (txuStep_move h).syncInv hi
  | host => exact hostStep_syncInv h hi
  | irq => exact hi.of_enabledOr (fun _ hu => irqStep_syncInv hu hi) h
  | copy => exact hi.of_enabledOr (fun _ hu => copyStep_syncInv hu hi) h
  | reset => cases h; exact hardReset_syncInv hw
  | rxu => rw [(rxuStep_move h).frame]; exact hi
  | miu => rw [miuStep_frame h]; exact hi
  | miieng => rw [miiengStep_frame h]; exact hi
  | dmaTransmit => exact hi.of_enabledOr_spend (fun _ hu => by rw [dmaTransmit_frame hu]; exact hi) h
  | dmaSuspend => exact hi.of_enabledOr (fun _ hu => by rw [dmaSuspend_frame hu]; exact hi) h
  | dmaFill => exact hi.of_enabledOr_spend (fun _ hu => by rw [dmaFill_frame hu]; exact hi) h
  | dmaArrive => exact hi.of_enabledOr_spend (fun _ hu => by rw [dmaArrive_frame hu]; exact hi) h

/-- In `T_COPY_START` the engine is free and bytes remain, so the start has a meaning (R224). -/
theorem copyStart_defined {s : State} (hw : s.par.wf = true) (hi : SyncInv s) (ht : TxuInv s) (hs : s.txu.state = .copyStart) :
    s.copy.busy = false ∧ s.fragLen ≠ 0 := by
  obtain ⟨hfree, -⟩ := hi.quiet (by rw [hs]; nofun)
  simp only [TxuInv, hs] at ht
  obtain ⟨-, -, -, -, hrem⟩ := ht
  exact ⟨hfree, mt (State.fragLen_eq_zero hw).1 hrem⟩

/-- Settles O51: no turn stops the machine, and each keeps the transfer in one of its phases. -/
theorem everyStepKeepsOneTransferInFlight : Obligations.EveryStepKeepsOneTransferInFlight := by
  intro s hw hi ht
  rw [step, s.takeTurn_frame]
  obtain ⟨t, h⟩ := turnStep_goesOn (s := { s with sched := s.takeTurn.sched, draws := s.takeTurn.draws })
    (copyStart_defined (s := s) hw hi ht) s.nextTurn
  exact ⟨t, h, turnStep_syncInv (s := { s with sched := s.takeTurn.sched, draws := s.takeTurn.draws }) hw hi h⟩

end Sys2Proof.Machine
end

section
/-! PROOFS. The transmit side of MACDMA (R242, R245, R246): where its two steps are enabled, and what the transmit step makes of the
descriptor at its position. -/

namespace Sys2Proof.Machine
open Sys2Proof

/-! Where the steps are not enabled. -/

section
variable {s : State} {w0 : Word} {err : BitVec 14}

theorem dmaTransmit_disabled (h : s.txEnabled = false) : dmaTransmit err s = none := by simp [dmaTransmit, h]

theorem dmaSuspend_disabled (h : s.txEnabled = false) : dmaSuspend s = none := by simp [dmaSuspend, h]

theorem dmaTransmit_softwareOwned (hw : s.loadW0 s.dma.txPtr = some w0) (ho : own w0 = false) : dmaTransmit err s = none := by
  simp [dmaTransmit, hw, ho]

theorem dmaSuspend_hardwareOwned (hw : s.loadW0 s.dma.txPtr = some w0) (ho : own w0 = true) : dmaSuspend s = none := by
  simp [dmaSuspend, hw, ho]

theorem dmaSuspend_softwareOwned (hen : s.txEnabled = true) (hw : s.loadW0 s.dma.txPtr = some w0) (ho : own w0 = false) :
    dmaSuspend s = some { s with dma := { s.dma with txRun := false } } := by
  simp [dmaSuspend, hen, hw, ho]

theorem turnStep_dmaTransmit_none (h : ∀ err, dmaTransmit err s = none) : turnStep .dmaTransmit s = .next s := by
  rw [turnStep, h, Option.map_none, enabledOr_none]

end

/-! The transmit step (R245). -/

/-- The word at an admitted address set. -/
theorem State.storeWord_sets {s : State} {a : Word} (v : Word) (hm : s.mem.wf = true) (ha : s.admitsWord a = true) :
    ∃ m, s.storeWord a v = some (s.withMem m) ∧ WordSet s.mem m a v := by
  have hst := State.storeWord_of_admits v ha
  obtain ⟨-, -, hwf, hword, hout⟩ := State.storeWord_some hst
  exact ⟨_, hst, hwf hm, hword hm, hout⟩

/-- The frame with the segment's bytes, a new one at `FS`. -/
def State.segmentAdded (s : State) (w0 : Word) (bytes : List Byte) : List Byte :=
  if segFirst w0 then bytes else s.dma.txAcc ++ bytes

theorem State.segmentAdded_eq (s : State) (w0 : Word) (bytes : List Byte) :
    (if segFirst w0 then [] else s.dma.txAcc) ++ bytes = s.segmentAdded w0 bytes := by
  cases h : segFirst w0 <;> simp [State.segmentAdded, h]

/-- The descriptor at MACDMA's position transmitted, memory then being `m` and `next` the descriptor's link. -/
def State.transmitted (s : State) (m : Memory) (w0 w1 next : Word) (bytes : List Byte) : State :=
  { s with
    mem := m, dma := { s.dma with txAcc := s.segmentAdded w0 bytes, txOpen := !segLast w0, txPtr := next },
    events := s.events ++ txEvents s.dma.txPtr w0 w1 bytes (s.segmentAdded w0 bytes) }

/-- What the transmit step needs of the descriptor at its position: words `w0`, `w1`, `buf`, `next`, and `bytes` in its buffer. -/
structure Transmittable (s : State) (w0 w1 buf next : Word) (bytes : List Byte) : Prop where
  memory : s.mem.wf = true
  enabled : s.txEnabled = true
  word0 : s.loadW0 s.dma.txPtr = some w0
  word1 : s.loadW1 s.dma.txPtr = some w1
  buffer : s.loadW2 s.dma.txPtr = some buf
  link : s.loadW3 s.dma.txPtr = some next
  payload : s.loadBytes buf (bufLen w1).toNat = some bytes
  owned : own w0 = true
  wellFormed : s.txWellFormed w0 w1 = true

/-- The store of `W0` leaves the descriptor's link, so the position follows it. -/
theorem Transmittable.performed {s : State} {w0 w1 buf next : Word} {bytes : List Byte} (h : Transmittable s w0 w1 buf next bytes)
    (err : BitVec 14) :
    ∃ m, dmaTransmit err s = some (s.transmitted m w0 w1 next bytes) ∧ WordSet s.mem m s.dma.txPtr (retireTx w0 err) := by
  obtain ⟨ha, -⟩ := State.loadWord_some h.word0
  obtain ⟨m, hst, hset⟩ := State.storeWord_sets (retireTx w0 err) h.memory ha
  have hlink : (s.withMem m).loadW3 s.dma.txPtr = some next :=
    (State.loadWord_other ha hset.outside (w3Addr_ne_w0Addr _)).trans h.link
  refine ⟨m, ?_, hset⟩
  simp only [dmaTransmit, h.enabled, h.word0, h.owned, h.word1, h.wellFormed, h.buffer, h.payload, hst, hlink,
    State.segmentAdded_eq, if_true, Option.bind_some]
  rfl

/-- Settles O44: the guards of the transmit step hold, and the word it gives back is `retireTx`, whose bits are known. -/
theorem dmaTransmitsOneDescriptor : Obligations.DmaTransmitsOneDescriptor := by
  intro s w0 w1 buf next bytes hm hmac hbase hrun h0 h1 h2 h3 hb hown hch hpos hcap hfs acc
  rw [← bufLen_toNat] at hb hpos hcap
  have hen : s.txEnabled = true := by simp [State.txEnabled, hmac, hbase, hrun]
  have hwell : s.txWellFormed w0 w1 = true := by
    simp only [State.txWellFormed, Bool.and_eq_true, decide_eq_true_eq, bne_iff_ne]
    exact ⟨⟨⟨hch, hpos⟩, hcap⟩, hfs⟩
  have hready : Transmittable s w0 w1 buf next bytes := ⟨hm, hen, h0, h1, h2, h3, hb, hown, hwell⟩
  obtain ⟨m, hstep, hset⟩ := hready.performed ((s.fresh 0).setWidth 14)
  have hbit (b : Nat) := (congrArg (·.getLsbD b) hset.word).trans (getLsbD_retireTx w0 _ b)
  refine ⟨(s.transmitted m w0 w1 next bytes).spend 1, ?_, ?_, hbit 31, fun b hlo hhi => ?_, hset.outside⟩
  · rw [turnStep, hstep, Option.map_some, enabledOr_some]
  · simp only [State.transmitted, State.spend, txEvents, List.append_assoc]
    rfl
  · exact (hbit b).trans ((if_neg (by omega)).trans (if_neg (by omega)))

/-- Settles O45: the owner decides which of the two steps is enabled, and neither is without `TX_BASE` or once suspended. -/
theorem dmaSuspendsOnSoftwareOwned : Obligations.DmaSuspendsOnSoftwareOwned := by
  have hneither (s : State) (hen : s.txEnabled = false) :
      turnStep .dmaTransmit s = .next s ∧ turnStep .dmaSuspend s = .next s :=
    ⟨turnStep_dmaTransmit_none fun _ => dmaTransmit_disabled hen, congrArg (enabledOr s) (dmaSuspend_disabled hen)⟩
  refine ⟨fun s w0 hw hmac hbase => ⟨fun hrun ho => ⟨?_, ?_⟩, fun _ ho => ?_, fun hrun => hneither s ?_⟩,
    fun s hbase => hneither s ?_⟩
  · exact congrArg (enabledOr s) (dmaSuspend_softwareOwned (by simp [State.txEnabled, hmac, hbase, hrun]) hw ho)
  · exact turnStep_dmaTransmit_none fun _ => dmaTransmit_softwareOwned hw ho
  · exact congrArg (enabledOr s) (dmaSuspend_hardwareOwned hw ho)
  · simp [State.txEnabled, hrun]
  · simp [State.txEnabled, hbase]

end Sys2Proof.Machine
end

section
/-! PROOFS. What MACDMA never touches (R249): registers outside its own, and memory but the words and bytes its two steps write. -/

namespace Sys2Proof.Machine
open Sys2Proof

/-- A transmit step reads `OWN` as 1 and writes `W0` of the descriptor at its position (R245). -/
theorem dmaTransmit_writes {err : BitVec 14} {s t : State} (h : dmaTransmit err s = some t) :
    s.hwOwned s.dma.txPtr = true ∧ SameOutside s.mem t.mem s.dma.txPtr.toNat 4 := by
  simp only [dmaTransmit, Option.ite_none_right_eq_some, Option.bind_eq_some_iff, Option.some.injEq] at h
  obtain ⟨-, w0, hw0, hown, w1, -, -, buf, -, bytes, -, u, hu, next, -, rfl⟩ := h
  obtain ⟨-, -, -, -, hout⟩ := State.storeWord_some hu
  exact ⟨(State.loadW0_own hw0).trans hown, hout⟩

/-- A fill step reads `OWN` as 1 and writes `W0` of the descriptor at its position and the bytes it delivers (R247). -/
theorem dmaFill_writes {fl err : BitVec 14} {s t : State} (h : dmaFill fl err s = some t) :
    s.hwOwned s.dma.rxPtr = true
      ∧ ∀ x, (x < s.dma.rxPtr.toNat ∨ s.dma.rxPtr.toNat + 4 ≤ x) →
        (x < (s.mem.wordAt (w2Addr s.dma.rxPtr).toNat).toNat
          ∨ (s.mem.wordAt (w2Addr s.dma.rxPtr).toNat).toNat
            + min s.dma.rxPend.length (bufLen (s.mem.wordAt (w1Addr s.dma.rxPtr).toNat)).toNat ≤ x) →
        t.mem.read x = s.mem.read x := by
  simp only [dmaFill, State.fillDesc, Option.ite_none_right_eq_some, Option.bind_eq_some_iff, Option.some.injEq] at h
  obtain ⟨-, w0, hw0, hown, w1, hw1, -, buf, hbuf, u, hu, v, hv, next, -, rfl⟩ := h
  obtain ⟨-, rfl⟩ := State.loadWord_some hw1
  obtain ⟨-, rfl⟩ := State.loadWord_some hbuf
  obtain ⟨-, -, -, -, hbytes⟩ := State.storeBytes_some hu
  obtain ⟨-, -, -, -, hword⟩ := State.storeWord_some hv
  refine ⟨(State.loadW0_own hw0).trans hown, fun x hdesc hbuf => (hword x hdesc).trans (hbytes x ?_)⟩
  rw [List.length_take]
  omega

/-- A turn that takes free values has performed the agent's step, or changed nothing. -/
theorem enabledOr_spend_next {s t : State} {o : Option State} {n : Nat} (h : enabledOr s (o.map fun u => u.spend n) = .next t) :
    (∃ u, o = some u ∧ t = u.spend n) ∨ t = s := by
  obtain h | ⟨-, rfl⟩ := enabledOr_next h
  · obtain ⟨u, hu, rfl⟩ := Option.map_eq_some_iff.1 h
    exact .inl ⟨u, hu, rfl⟩
  · exact .inr rfl

theorem turnStep_dmaSuspend_frame {s t : State} (h : turnStep .dmaSuspend s = .next t) : t = { s with dma := t.dma } := by
  obtain hu | ⟨-, rfl⟩ := enabledOr_next h
  · exact dmaSuspend_frame hu
  · rfl

theorem turnStep_dmaArrive_frame {s t : State} (h : turnStep .dmaArrive s = .next t) :
    t = { s with dma := t.dma, draws := t.draws } := by
  obtain ⟨u, hu, rfl⟩ | rfl := enabledOr_spend_next h
  · rw [dmaArrive_frame hu]; rfl
  · rfl

/-- Settles O57: each of the four steps keeps the frame, and the two that write memory read `OWN` as 1 first. -/
theorem dmaKeepsToItsOwn : Obligations.DmaKeepsToItsOwn := by
  refine ⟨fun s t h => ?_, fun s t => ⟨fun h => ?_, fun h => ?_, fun h => ?_⟩⟩
  · obtain h | h | h | h := h
    · obtain ⟨u, hu, rfl⟩ | rfl := enabledOr_spend_next h
      · rw [dmaTransmit_frame hu]; rfl
      · rfl
    · rw [turnStep_dmaSuspend_frame h]
    · obtain ⟨u, hu, rfl⟩ | rfl := enabledOr_spend_next h
      · rw [dmaFill_frame hu]; rfl
      · rfl
    · rw [turnStep_dmaArrive_frame h]
  · obtain ⟨u, hu, rfl⟩ | rfl := enabledOr_spend_next h
    · obtain ⟨hown, hout⟩ := dmaTransmit_writes hu
      exact ⟨hout, fun hsw => absurd (hown.symm.trans hsw) nofun⟩
    · exact ⟨fun _ _ => rfl, fun _ => rfl⟩
  · obtain h | h := h
    · rw [turnStep_dmaSuspend_frame h]
    · rw [turnStep_dmaArrive_frame h]
  · obtain ⟨u, hu, rfl⟩ | rfl := enabledOr_spend_next h
    · obtain ⟨hown, hout⟩ := dmaFill_writes hu
      rw [bufLen_toNat] at hout
      exact ⟨hout, fun hsw => absurd (hown.symm.trans hsw) nofun⟩
    · exact ⟨fun _ _ _ => rfl, fun _ => rfl⟩

end Sys2Proof.Machine
end

section
/-! PROOFS. The receive side of MACDMA (R242, R247, R251): where its two steps are enabled, what a fill leaves of the bytes pending and of
the descriptor, and the bounds of the frame that arrives. -/

namespace Sys2Proof.Machine
open Sys2Proof

/-! Where the steps are not enabled. -/

section
variable {s : State} {fl err : BitVec 14}

theorem dmaFill_disabled (h : s.rxEnabled = false ∨ s.dma.rxOpen = false) : dmaFill fl err s = none := by
  obtain h | h := h <;> simp [dmaFill, h]

theorem dmaFill_softwareOwned (h : s.hwOwned s.dma.rxPtr = false) : dmaFill fl err s = none :=
  Option.eq_none_iff_forall_ne_some.2 fun _ hfill => Bool.false_ne_true (h.symm.trans (dmaFill_writes hfill).1)

theorem dmaArrive_disabled {frame : List Byte} (h : s.rxEnabled = false ∨ s.dma.rxOpen = true) : dmaArrive frame s = none := by
  obtain h | h := h <;> simp [dmaArrive, h]

theorem turnStep_dmaFill_none (h : ∀ fl err, dmaFill fl err s = none) : turnStep .dmaFill s = .next s := by
  rw [turnStep, h, Option.map_none, enabledOr_none]

theorem turnStep_dmaArrive_none (h : ∀ frame, dmaArrive frame s = none) : turnStep .dmaArrive s = .next s := by
  rw [turnStep, h, Option.map_none, enabledOr_none]

end

/-! The fill step (R247). -/

/-- `m'` is `m` with the bytes `bs` at `buf` and the word `w0` at `d`. -/
structure DescFilled (m m' : Memory) (d buf w0 : Word) (bs : List Byte) : Prop where
  word : m'.wordAt d.toNat = w0
  bytes : ∀ i, (hi : i < bs.length) → m'.read (buf.toNat + i) = bs[i]
  outside : ∀ x, (x < d.toNat ∨ d.toNat + 4 ≤ x) → (x < buf.toNat ∨ buf.toNat + bs.length ≤ x) → m'.read x = m.read x

/-- The descriptor at MACDMA's position filled with the next `c` bytes, memory then being `m` and `next` the descriptor's link. -/
def State.filled (s : State) (m : Memory) (next : Word) (c : Nat) (last : Bool) (field : BitVec 14) : State :=
  { s with
    mem := m, dma := { s.dma with rxPend := s.dma.rxPend.drop c, rxOpen := !last, rxFirst := last, rxPtr := next },
    events := s.events ++ [.rxSegment s.dma.rxPtr (s.dma.rxPend.take c) s.dma.rxFirst last field] }

/-- What the fill step needs of the descriptor at its position, with words `w0`, `w1`, `buf`, `next`, to deliver `c` bytes: `buf` keeps off
the descriptor. -/
structure Fillable (s : State) (w0 w1 buf next : Word) (c : Nat) : Prop where
  memory : s.mem.wf = true
  enabled : s.rxEnabled = true
  pending : s.dma.rxOpen = true
  word0 : s.loadW0 s.dma.rxPtr = some w0
  word1 : s.loadW1 s.dma.rxPtr = some w1
  buffer : s.loadW2 s.dma.rxPtr = some buf
  link : s.loadW3 s.dma.rxPtr = some next
  owned : own w0 = true
  chain : chained w1 = true
  count : c = min s.dma.rxPend.length (bufLen w1).toNat
  mapped : s.par.mappedRange buf.toNat c = true
  apart : ∀ x, s.dma.rxPtr.toNat ≤ x → x < s.dma.rxPtr.toNat + 16 → x < buf.toNat ∨ buf.toNat + c ≤ x
  descEnd : s.dma.rxPtr.toNat + 16 ≤ 4294967296

section
variable {s : State} {w0 w1 buf next : Word} {c : Nat} (h : Fillable s w0 w1 buf next c)
include h

theorem Fillable.length_take : (s.dma.rxPend.take c).length = c := List.length_take_of_le (h.count ▸ min_le_left _ _)

/-- The segment is the last exactly when it is all that is pending. -/
theorem Fillable.isEmpty_drop : (s.dma.rxPend.drop c).isEmpty = decide (c = s.dma.rxPend.length) := by
  have hle : c ≤ s.dma.rxPend.length := h.count ▸ min_le_left _ _
  rw [Bool.eq_iff_iff, List.isEmpty_iff, List.drop_eq_nil_iff, decide_eq_true_eq]
  omega

/-- The bytes leave the descriptor's link, and the store of `W0` leaves the bytes. -/
theorem Fillable.fillDesc (last : Bool) (field err : BitVec 14) :
    ∃ m, s.fillDesc buf c last field err = some (s.filled m next c last field)
      ∧ DescFilled s.mem m s.dma.rxPtr buf (filledW0 s.dma.rxFirst last field err) (s.dma.rxPend.take c) := by
  have hlen := h.length_take
  have hdeliver := State.storeBytes_of_mapped (s := s) (a := buf) (bs := s.dma.rxPend.take c) (hlen.symm ▸ h.mapped)
  obtain ⟨-, -, hwf, hbytes, hout⟩ := State.storeBytes_some hdeliver
  generalize s.mem.writeBytes buf.toNat (s.dma.rxPend.take c) = m at hdeliver hwf hbytes hout
  have ha : s.admitsWord s.dma.rxPtr = true := (State.loadWord_some h.word0).1
  obtain ⟨m', hst, hset⟩ := State.storeWord_sets (s := s.withMem m) (filledW0 s.dma.rxFirst last field err) (hwf h.memory) ha
  have hlink : ((s.withMem m).withMem m').loadW3 s.dma.rxPtr = some next := by
    obtain ⟨-, -, -, h3⟩ := wordAddrs h.descEnd
    have hkept : (s.withMem m).loadW3 s.dma.rxPtr = s.loadW3 s.dma.rxPtr :=
      State.loadWord_kept rfl (Memory.wordAt_congr fun i hi => hout _ (hlen.symm ▸ h.apart _ (by omega) (by omega)))
    exact (State.loadWord_other (s := s.withMem m) ha hset.outside (w3Addr_ne_w0Addr _)).trans (hkept.trans h.link)
  refine ⟨m', ?_, hset.word, fun i hi => ?_, fun x hx hxb => (hset.outside x hx).trans (hout x hxb)⟩
  · rw [State.fillDesc, hdeliver, Option.bind_some, w0Addr, hst, Option.bind_some, hlink]
    rfl
  · have hoff := h.apart (buf.toNat + i)
    exact (hset.outside _ (by omega)).trans (hbytes h.memory i hi)

theorem Fillable.performed (fl err : BitVec 14) {last : Bool} (hlast : last = decide (c = s.dma.rxPend.length)) :
    ∃ m, dmaFill fl err s = some (s.filled m next c last (s.fillField last fl))
      ∧ DescFilled s.mem m s.dma.rxPtr buf (filledW0 s.dma.rxFirst last (s.fillField last fl) err) (s.dma.rxPend.take c) := by
  obtain ⟨m, hfill, hset⟩ := h.fillDesc last (s.fillField last fl) err
  refine ⟨m, ?_, hset⟩
  simp only [dmaFill, h.enabled, h.pending, h.word0, h.owned, h.word1, h.chain, h.buffer, ← h.count, h.isEmpty_drop, ← hlast, hfill,
    Bool.and_self, if_true, Option.bind_some]

end

/-- The length field `MACDMA` writes is read back. -/
theorem frameLen_filledW0 (fs last : Bool) (fl err : BitVec 14) : frameLen (filledW0 fs last fl err) = fl := by
  refine BitVec.eq_of_getLsbD_eq fun i hi => ?_
  rw [frameLen, BitVec.getLsbD_extractLsb', decide_eq_true hi, Bool.true_and, getLsbD_filledW0, if_neg (by omega), if_pos (by omega),
    Nat.add_sub_cancel_left]

theorem State.fillField_last (s : State) (fl : BitVec 14) {last : Bool} (h : last = true) :
    (s.fillField last fl).toNat = s.dma.rxLen % 16384 := by
  rw [State.fillField, if_pos h, BitVec.toNat_ofNat]

/-- Settles O46: the guards of the fill step hold and `W0` comes back as `filledW0`, whose fields are known; or one of them fails. -/
theorem dmaFillsOneDescriptor : Obligations.DmaFillsOneDescriptor := by
  constructor
  · intro s w0 w1 buf next hm hmac hbase hopen h0 h1 h2 h3 hown hch c last hmap hoff hd
    have hen : s.rxEnabled = true := by simp [State.rxEnabled, hmac, hbase]
    have hready : Fillable s w0 w1 buf next c :=
      ⟨hm, hen, hopen, h0, h1, h2, h3, hown, hch, by rw [bufLen_toNat], hmap, hoff, hd⟩
    obtain ⟨m, hstep, hset⟩ := hready.performed ((s.fresh 0).setWidth 14) ((s.fresh 1).setWidth 14) (last := last) rfl
    have hfield := s.fillField_last ((s.fresh 0).setWidth 14) (last := last)
    generalize s.fillField last ((s.fresh 0).setWidth 14) = field at hstep hset hfield
    have hlen := hready.length_take
    have hbit (b : Nat) := (congrArg (·.getLsbD b) hset.word).trans (getLsbD_filledW0 _ _ _ _ b)
    have hfl := (congrArg frameLen hset.word).trans (frameLen_filledW0 _ _ _ _)
    refine ⟨(s.filled m next c last field).spend 2, field, ?_, rfl, fun i hi => ?_, hbit 31, hbit 30, hbit 29, hbit 28, ?_, hfield,
      fun x hx hxb => hset.outside x hx (hlen.symm ▸ hxb)⟩
    · rw [turnStep, hstep, Option.map_some, enabledOr_some]
    · exact (hset.bytes i (hlen.symm ▸ hi)).trans List.getElem_take
    · exact (frameLen_toNat _).symm.trans (congrArg BitVec.toNat hfl)
  · intro s hwait
    refine turnStep_dmaFill_none fun fl err => ?_
    obtain hsw | hclosed | hmac | hbase := hwait
    · exact dmaFill_softwareOwned hsw
    · exact dmaFill_disabled (.inr hclosed)
    · exact dmaFill_disabled (.inl (macDma_disabled hmac).2)
    · exact dmaFill_disabled (.inl (by simp [State.rxEnabled, hbase]))

/-! The arrival of a frame (R251). -/

/-- The frame drawn has a length within the bounds, the ring having room for one (R5). -/
theorem State.freeFrame_length {s : State} (hw : s.par.wf = true) : 4 ≤ s.freeFrame.length ∧ s.freeFrame.length ≤ s.maxFrame := by
  obtain ⟨-, -, -, -, -, -, hroom, -⟩ := Params.wf_rings hw
  have hmax : 4 ≤ s.maxFrame := le_min (by decide) (by omega)
  have hmod := Nat.mod_lt (s.fresh 0).toNat (show 0 < s.maxFrame - 3 by omega)
  rw [State.freeFrame, length_freeBytes]
  omega

theorem dmaArrive_performed {s : State} {frame : List Byte} (hen : s.rxEnabled = true) (hnone : s.dma.rxOpen = false)
    (hlo : 4 ≤ frame.length) (hhi : frame.length ≤ s.maxFrame) : dmaArrive frame s = some { s with dma := { s.dma with
      rxPend := frame, rxLen := frame.length, rxOpen := true, rxFirst := true } } := by
  simp [dmaArrive, hen, hnone, hlo, hhi]

/-- Settles O47: without `RX_BASE`, or while a frame is arriving, the step is disabled; else the frame drawn meets the bounds. -/
theorem frameArrivalIsBounded : Obligations.FrameArrivalIsBounded := by
  intro s hw
  refine ⟨fun hbase => turnStep_dmaArrive_none fun _ => dmaArrive_disabled (.inl (by simp [State.rxEnabled, hbase])),
    fun hmac hbase => ⟨fun hopen => turnStep_dmaArrive_none fun _ => dmaArrive_disabled (.inr hopen), fun hnone => ?_⟩⟩
  have hen : s.rxEnabled = true := by simp [State.rxEnabled, hmac, hbase]
  obtain ⟨hlo, hhi⟩ := State.freeFrame_length hw
  refine ⟨s.freeFrame, s.draws + (1 + s.freeFrame.length), hlo, hhi.trans (min_le_left _ _), hhi.trans (min_le_right _ _), ?_⟩
  rw [turnStep, dmaArrive_performed hen hnone hlo hhi]
  rfl

end Sys2Proof.Machine
end
